-- ==== Sys2Proof/Word.lean ====
section
/-! DEFINITION. The words of the CORE: every register, field and code of the spec that is a bit vector, by
its own name, and the count of set bits of a pattern. The widths are the fixed parameters of 00_scope.md R5
(N_NOZ = 12, FIELD_W = 3, PAT_W = 32, a 4-bit sink address) and the 10-bit operation word of 30_encoding.md R53. -/

namespace Sys2Proof

/-- One byte as the transport delivers it (30_encoding.md R50). -/
abbrev Byte := BitVec 8

/-- One operation word: `op` in bits 9:8, `data` in bits 7:0 (30_encoding.md R53). -/
abbrev OpWord := BitVec 10

/-- A raw intensity field of a byte, 0..7 (FIELD_W = 3; 30_encoding.md R52). -/
abbrev Field := BitVec 3

/-- An entry of the register file NOZ: 3 bits, holding a level 0..4 (10_state.md R11). -/
abbrev Level := BitVec 3

/-- A grayscale pattern (PAT_W = 32; 10_state.md R15). -/
abbrev Pattern := BitVec 32

/-- The observable low bits of the step counter, STEP[4:0] (10_state.md R14). -/
abbrev Phase := BitVec 5

/-- A firing mask: bit i is nozzle i (10_state.md R17). -/
abbrev FireMask := BitVec 12

/-- A nozzle index, 0..11 (N_NOZ = 12; 20_memory.md R30): the same index names the nozzle in NOZ and on the sink. -/
abbrev Nozzle := Fin 12

/-- The number of 1 bits of a pattern (00_scope.md R7). -/
def popcount (p : Pattern) : Nat := (List.range 32).countP fun k => p.getLsbD k

end Sys2Proof
end

