-- ==== Sys2Proof/Config.lean ====
section
/-! DEFINITION. What an implementation fixes and the spec leaves open: the grayscale patterns of levels 1 to 3,
the storage width of the step counter, the three times, and the free values. Each open value is an opaque
constant: nothing in Lean can evaluate it, so a proved claim holds whatever it is. -/

namespace Sys2Proof

/-- The open part of the grayscale table: the patterns of levels 1, 2 and 3 (10_state.md R15). Levels 0 and 4
are constants of the lookup itself. -/
structure GrayTable where
  gray1 : Pattern
  gray2 : Pattern
  gray3 : Pattern
deriving DecidableEq, Repr

/-- The constraint on the open patterns: c1 <= c2 <= c3 in set bits (10_state.md R15). The bounds 0 <= c1 and
c3 <= 32 hold of every 32-bit pattern. -/
def GrayTable.legal (t : GrayTable) : Bool :=
  decide (popcount t.gray1 ≤ popcount t.gray2) && decide (popcount t.gray2 ≤ popcount t.gray3)

/-- A grayscale table with the proof that it meets the constraint of 10_state.md R15. The default values only
show that such a table exists: no proof can learn them from the opaque constant below. -/
structure LegalGrayTable where
  table : GrayTable := ⟨0, 0, 0⟩
  legal : table.legal = true := by decide
deriving Inhabited

/-- GRAY1, GRAY2 and GRAY3 of the device (OPEN: 00_scope.md R5, 92_eei_decisions.md D2, log entry 7). -/
opaque Config.grayTable : LegalGrayTable

/-- What the lookup returns for the levels 5, 6 and 7, which no reachable state holds (free values:
41_renderer.md R80, 93_implementation_defined.md U3, log entry 8). -/
opaque Config.grayBeyond : Level → Pattern

/-- How many bits the step counter has above its low five (OPEN: 00_scope.md R5, log entry 9). -/
opaque Config.stepExtra : Nat

/-- STEP_W, the storage width of the step counter, an open parameter >= 5 (00_scope.md R5, 10_state.md R14). -/
abbrev Config.stepW : Nat := Config.stepExtra + 5

/-- The named times of 00_scope.md R5: T_ADDR, T_PULSE and T_STEP_MIN. -/
inductive TimingParam where
  | tAddr
  | tPulse
  | tStepMin
deriving DecidableEq, Repr

/-- The length of each named time, in an unnamed unit (OPEN: 92_eei_decisions.md D17, log entry 12). No step of
the machine reads it. -/
opaque Config.duration : TimingParam → Nat

/-- How many events of the last STEP had happened when a RESET cut it, for the n-th RESET that found events to
cut (a free value: 70_reset_and_hazards.md R126, 93_implementation_defined.md U13, log entry 4). A count beyond
the length of the sequence means that the STEP had finished. -/
opaque Config.resetCut : Nat → Nat

end Sys2Proof
end

