-- ==== Sys2Proof/Syntax.lean ====
section
/-! DEFINITION. The operations of the CORE (one constructor per row of the opcode table, 30_encoding.md R54), the
names of the reserved operation words (R55), and the lines of the spec's assembler notation (R59, R60). -/

namespace Sys2Proof

/-- The six operations. `h` and `l` are the raw intensity fields H (bits 5:3) and L (bits 2:0) of the byte. -/
inductive Instr where
  /-- BYTE.PAYLOAD.S00: a payload byte with marker bits 00 (40_decoder.md R73). -/
  | bytePayloadS00 (h l : Field)
  /-- BYTE.PAYLOAD.S01: a payload byte with marker bits 01 (40_decoder.md R73). -/
  | bytePayloadS01 (h l : Field)
  /-- BYTE.PAYLOAD.S10: a payload byte with marker bits 10 (40_decoder.md R73). -/
  | bytePayloadS10 (h l : Field)
  /-- BYTE.MARK: a frame-start marker byte (40_decoder.md R72). -/
  | byteMark (h l : Field)
  /-- STEP: one render step (41_renderer.md R83). -/
  | step
  /-- RESET: the block reset (70_reset_and_hazards.md R120). -/
  | reset
deriving DecidableEq, Repr

/-- The kinds of reserved operation word (30_encoding.md R55). -/
inductive Reserved where
  /-- `op` = 11: 0x300..0x3FF. -/
  | op11
  /-- `op` = STEP with a data field that is not 0x00: 0x101..0x1FF. -/
  | stepData
  /-- `op` = RESET with a data field that is not 0x00: 0x201..0x2FF. -/
  | resetData
deriving DecidableEq, Repr

/-- One line of the assembler notation (30_encoding.md R59), with the pseudo-instructions of R60. Operands are
naturals: an operand outside its range is an assembly error, not another instruction. -/
inductive AsmLine where
  /-- `BYTE b` -/
  | byte (b : Nat)
  /-- `MARK h, l` -/
  | mark (h l : Nat)
  /-- `DATA h, l` -/
  | data (h l : Nat)
  /-- `STEP` -/
  | step
  /-- `RESET` -/
  | reset
  /-- `FRAME v0, …, v11` -/
  | frame (v : Vector Nat 12)
  /-- `STEPS n` -/
  | steps (n : Nat)
deriving DecidableEq, Repr

end Sys2Proof
end

