-- ==== Sys2Proof/Machine/State.lean ====
section
/-! DEFINITION. The state of the CORE (10_state.md R10), the sink's signals and events (R18, 41_renderer.md R85),
the reasons a step can stop, and the state after reset (10_state.md R21). -/

namespace Sys2Proof.Machine

/-- A change of the sink outputs, as the event trace records it (41_renderer.md R85). -/
inductive SinkEvent where
  /-- AddrAssert(n): `noz_addr <- n ; addr_en <- 1`. -/
  | addrAssert (n : Nozzle)
  /-- PulseHigh: `pulse <- 1`. -/
  | pulseHigh
  /-- PulseLow: `pulse <- 0`. -/
  | pulseLow
  /-- AddrDeassert: `addr_en <- 0`. -/
  | addrDeassert
deriving DecidableEq, Repr

/-- The three registered sink outputs (10_state.md R18, 60_exceptions.md R109). -/
structure SinkLines where
  /-- `addr_en`: an address is asserted. -/
  addrEn : Bool
  /-- `noz_addr[3:0]`: the nozzle address, meaningful only while `addr_en` = 1. -/
  nozAddr : BitVec 4
  /-- `pulse`: the pulse line. -/
  pulse : Bool
deriving DecidableEq, Repr

/-- The sink outputs after reset: all 0 (10_state.md R18, R21). -/
def SinkLines.atReset : SinkLines := { addrEn := false, nozAddr := 0, pulse := false }

/-- The machine. The first seven fields are the CORE's state, "exactly the following" of 10_state.md R10; the last
four are the model's own: the sink event trace it records (00_scope.md R8, 60_exceptions.md R111), the free-value
counter of the reset cut, and the operations the environment presents next. -/
structure State where
  /-- NOZ[0..11], the nozzle intensity register file (10_state.md R11). -/
  noz : Vector Level 12
  /-- CURSOR, the frame cursor (10_state.md R13). -/
  cursor : BitVec 3
  /-- STEP[STEP_W-1:5], the step counter above its low five bits (10_state.md R14, log entry 9). -/
  stepHigh : BitVec Config.stepExtra
  /-- STEP[4:0], the phase (10_state.md R14). -/
  stepLow : Phase
  /-- FIRE_MASK, the firing mask of the most recent STEP (10_state.md R17). -/
  fireMask : FireMask
  /-- The sink outputs `addr_en`, `noz_addr`, `pulse` (10_state.md R18). -/
  sink : SinkLines
  /-- GRAY(1..3), the open entries of the read-only grayscale table (10_state.md R15, log entry 7). -/
  lut : GrayTable
  /-- The sink events of everything before the most recent STEP, oldest first (log entry 3). -/
  sinkDone : List SinkEvent
  /-- The sink events of the most recent STEP, which a RESET may still cut (70_reset_and_hazards.md R126). -/
  sinkLast : List SinkEvent
  /-- How many free values of `Config.resetCut` have been taken (log entry 4). -/
  cuts : Nat
  /-- The operation words the environment presents next, in order (30_encoding.md R53, log entry 1). -/
  input : List OpWord
deriving DecidableEq, Repr

/-- The CORE raises no exception and no operation can fail (60_exceptions.md R100; 93_implementation_defined.md:
"No behaviour of the CORE is a `fault` or `stuck`"): there is no fault. -/
inductive Fault where
deriving DecidableEq, Repr

/-- Why the model gives an input no meaning. -/
inductive Refusal where
  /-- An instruction whose meaning is not written yet; raised by exec's refused arms only. Safe: no step is taken. -/
  | notModelled (mnemonic : String)
  /-- A reserved operation word, which spells no operation (30_encoding.md R55); raised by the step when the word
  presented next is reserved. Safe: no step is taken, and the hardware never produces such a word. -/
  | reservedWord (kind : Reserved)
deriving DecidableEq, Repr

/-- The machine at power-on (10_state.md R21, 70_reset_and_hazards.md R121): every register 0, the grayscale table
of the device, and nothing recorded or presented yet (log entries 1, 3, 4, 7). -/
def State.reset : State where
  noz := Vector.replicate 12 0
  cursor := 0
  stepHigh := 0
  stepLow := 0
  fireMask := 0
  sink := SinkLines.atReset
  lut := Config.grayTable.table
  sinkDone := []
  sinkLast := []
  cuts := 0
  input := []

end Sys2Proof.Machine
end

