-- ==== Sys2Proof/Machine/Flags.lean ====
section
/-! DEFINITION. The CORE has no status flags and no condition codes (10_state.md R19), and every operation rule
gives "flags written: none" (00_scope.md R9; 40_decoder.md R72, R73; 41_renderer.md R83; 70_reset_and_hazards.md
R120). So there is no flag computation to define; the file stands to say so. -/
end

