-- ==== Sys2Proof/Decode.lean ====
section
/-! DEFINITION. The decoder of operation words and wire bytes, the encoder, and the opcode map
(30_encoding.md R50 to R55). -/

namespace Sys2Proof

/-- The marker bits S of a byte, bits 7:6 (30_encoding.md R50). -/
def markerField (b : Byte) : BitVec 2 := b.extractLsb' 6 2

/-- The high field H of a byte, bits 5:3: the field of the even nozzle (30_encoding.md R50, R52). -/
def highField (b : Byte) : Field := b.extractLsb' 3 3

/-- The low field L of a byte, bits 2:0: the field of the odd nozzle (30_encoding.md R50, R52). -/
def lowField (b : Byte) : Field := b.extractLsb' 0 3

/-- A byte is a frame-start marker if and only if bits 7:6 are 11 (30_encoding.md R51). -/
def isMarker (b : Byte) : Bool := decide (markerField b = 0b11#2)

/-- The byte with marker bits `s` and fields `h` and `l` (30_encoding.md R50). -/
def wireByte (s : BitVec 2) (h l : Field) : Byte := s ++ h ++ l

/-- The operation code of an operation word, bits 9:8 (30_encoding.md R53). -/
def opField (w : OpWord) : BitVec 2 := w.extractLsb' 8 2

/-- The data field of an operation word, bits 7:0 (30_encoding.md R53). -/
def dataField (w : OpWord) : Byte := w.extractLsb' 0 8

/-- Every wire byte is an operation: a marker, or a payload byte of one of three spellings (30_encoding.md R51,
R54, R56). -/
def decodeByteOp (b : Byte) : Instr :=
  if markerField b = 0b11#2 then .byteMark (highField b) (lowField b)
  else if markerField b = 0b10#2 then .bytePayloadS10 (highField b) (lowField b)
  else if markerField b = 0b01#2 then .bytePayloadS01 (highField b) (lowField b)
  else .bytePayloadS00 (highField b) (lowField b)

/-- The decoder: every operation word of the opcode map, and a name for every reserved word (30_encoding.md R53,
R54, R55). -/
def decode (w : OpWord) : Except Reserved Instr :=
  if opField w = 0b00#2 then .ok (decodeByteOp (dataField w))
  else if opField w = 0b01#2 then
    if dataField w = 0 then .ok .step else .error .stepData
  else if opField w = 0b10#2 then
    if dataField w = 0 then .ok .reset else .error .resetData
  else .error .op11

/-- The encoder, from the bit patterns of 30_encoding.md R54. -/
def encode : Instr → OpWord
  | .bytePayloadS00 h l => 0b0000#4 ++ h ++ l
  | .bytePayloadS01 h l => 0b0001#4 ++ h ++ l
  | .bytePayloadS10 h l => 0b0010#4 ++ h ++ l
  | .byteMark h l => 0b0011#4 ++ h ++ l
  | .step => 0b0100000000#10
  | .reset => 0b1000000000#10

/-- The wire byte an operation takes, for the four BYTE operations (30_encoding.md R53: a BYTE word corresponds one
for one to the wire byte). -/
def Instr.byte? : Instr → Option Byte
  | .bytePayloadS00 h l => some (wireByte 0b00#2 h l)
  | .bytePayloadS01 h l => some (wireByte 0b01#2 h l)
  | .bytePayloadS10 h l => some (wireByte 0b10#2 h l)
  | .byteMark h l => some (wireByte 0b11#2 h l)
  | .step => none
  | .reset => none

/-- One row of the opcode map: a word selects the row when the bits under `mask` are `bits` (30_encoding.md R54). -/
structure OpcodeRow where
  mnemonic : String
  bits : OpWord
  mask : OpWord
deriving DecidableEq, Repr

/-- `(w & mask) = match` (30_encoding.md R54). -/
def OpcodeRow.selects (r : OpcodeRow) (w : OpWord) : Bool := decide (w &&& r.mask = r.bits)

/-- The row of the opcode map that each constructor stands for (30_encoding.md R54). -/
def Instr.row : Instr → OpcodeRow
  | .bytePayloadS00 _ _ => ⟨"BYTE.PAYLOAD.S00", 0x000#10, 0x3C0#10⟩
  | .bytePayloadS01 _ _ => ⟨"BYTE.PAYLOAD.S01", 0x040#10, 0x3C0#10⟩
  | .bytePayloadS10 _ _ => ⟨"BYTE.PAYLOAD.S10", 0x080#10, 0x3C0#10⟩
  | .byteMark _ _ => ⟨"BYTE.MARK", 0x0C0#10, 0x3C0#10⟩
  | .step => ⟨"STEP", 0x100#10, 0x3FF#10⟩
  | .reset => ⟨"RESET", 0x200#10, 0x3FF#10⟩

/-- The complete opcode map, in the table's order (30_encoding.md R54). -/
def opcodeRows : List OpcodeRow :=
  [(Instr.bytePayloadS00 0 0).row, (Instr.bytePayloadS01 0 0).row, (Instr.bytePayloadS10 0 0).row,
    (Instr.byteMark 0 0).row, Instr.step.row, Instr.reset.row]

/-- The operation word that the low `nbits` bits of `w` are, if they are one: a number of more than ten bits is
no operation word (log entry 14). -/
def tableWord (nbits w : Nat) : Option OpWord :=
  if w % 2 ^ nbits < 1024 then some (BitVec.ofNat 10 (w % 2 ^ nbits)) else none

/-- What the decoder reads from a row's bits as the opcode table numbers them: the one operation word, bit 0 its
least significant bit. -/
def decodeTableWord (nbits w : Nat) : Option Instr :=
  match tableWord nbits w with
  | none => none
  | some v =>
    match decode v with
    | .ok i => some i
    | .error _ => none

end Sys2Proof
end

