-- ==== Sys2Proof/Machine/Operands.lean ====
section
/-! DEFINITION. The operand forms of the CORE: the level clamp of a field, the two nozzle entries of a slot, the
register file's read and write, the grayscale lookup and the step counter as one register. -/

namespace Sys2Proof.Machine

/-- LVL(f) = min(f, L_MAX) with L_MAX = 4: the level a 3-bit field is stored as (40_decoder.md R70). -/
def lvl (f : Field) : Level := BitVec.ofNat 3 (min f.toNat 4)

/-- The index of the entry that slot `c` gives the high field (40_decoder.md R71). -/
def evenEntry (c : Nat) : Nat := 2 * c

/-- The index of the entry that slot `c` gives the low field (40_decoder.md R71). -/
def oddEntry (c : Nat) : Nat := 2 * c + 1

/-- `NOZ[i]` (00_scope.md R8). -/
def State.nozzle (s : State) (i : Nozzle) : Level := s.noz[i]

/-- `NOZ[i] <- v` (00_scope.md R8). There is no entry beyond 11: such a write, which no legal CURSOR forms
(20_memory.md R30), changes nothing (log entry 10). -/
def State.writeNozzle (s : State) (i : Nat) (v : Level) : State :=
  { s with noz := s.noz.setIfInBounds i v }

/-- GRAY(l): level 0 is all-zero, level 4 all-one, levels 1 to 3 are the device's patterns (10_state.md R15,
41_renderer.md R80). Levels 5 to 7 give a free value (log entry 8). -/
def gray (t : GrayTable) (l : Level) : Pattern :=
  if l = 0#3 then 0x00000000#32
  else if l = 1#3 then t.gray1
  else if l = 2#3 then t.gray2
  else if l = 3#3 then t.gray3
  else if l = 4#3 then 0xFFFFFFFF#32
  else Config.grayBeyond l

/-- The step counter STEP as the one register of STEP_W bits that it is (10_state.md R14). -/
def State.stepReg (s : State) : BitVec Config.stepW := s.stepHigh ++ s.stepLow

/-- `STEP <- (STEP + 1) mod 2^STEP_W` (41_renderer.md R84): the low five bits count modulo 32 and carry into the
bits above. -/
def State.countStep (s : State) : State :=
  { s with
    stepHigh := if s.stepLow = 31#5 then s.stepHigh + 1 else s.stepHigh
    stepLow := s.stepLow + 1 }

end Sys2Proof.Machine
end

