-- ==== Sys2Proof/Machine/Ops.lean ====
section
/-! DEFINITION. The shared operations of the CORE: DecodeByte (40_decoder.md R71), the mask function
(41_renderer.md R81), the firing sequence on the sink (R85, R86, R87), RenderStep (R83), Reset with the cut of a
firing sequence (70_reset_and_hazards.md R120, R126), and taking the next operation from the environment.

Taking an exception and returning from one are not here: the CORE raises none, and "There is no trap entry" and
"no trap return" (60_exceptions.md R100, R104, R105). -/

namespace Sys2Proof.Machine

/-! ## The frame decoder -/

/-- A marker resets the cursor before the byte's payload is consumed (40_decoder.md R71). -/
def State.resync (s : State) (b : Byte) : State :=
  if isMarker b then { s with cursor := 0 } else s

/-- The cursor after slot `c`: one further, and 0 after the last slot (40_decoder.md R71, R74). -/
def nextCursor (c : Nat) : BitVec 3 := if c + 1 > 5 then 0 else BitVec.ofNat 3 (c + 1)

/-- The payload part of DecodeByte: two clamped fields into the slot's two entries, then the cursor moves on
(40_decoder.md R71). -/
def State.takePayload (s : State) (h l : Field) : State :=
  { (s.writeNozzle (evenEntry s.cursor.toNat) (lvl h)).writeNozzle (oddEntry s.cursor.toNat) (lvl l) with
    cursor := nextCursor s.cursor.toNat }

/-- DecodeByte(b) (40_decoder.md R71). -/
def decodeByte (b : Byte) (s : State) : State :=
  (s.resync b).takePayload (highField b) (lowField b)

/-! ## The pulse modulator -/

/-- Mask(N, ph): bit i is bit `ph` of the pattern of entry i's level (41_renderer.md R81, 20_memory.md R32). -/
def maskOf (t : GrayTable) (noz : Vector Level 12) (ph : Phase) : FireMask :=
  BitVec.ofFnLE fun i : Nozzle => (gray t noz[i]).getLsbD ph.toNat

/-- One item of the sink's script: a change of the outputs, or a wait of a named length (41_renderer.md R85). -/
inductive SinkAction where
  | drive (e : SinkEvent)
  | wait (p : TimingParam)
deriving DecidableEq, Repr

/-- Fire(n): the sequence of output changes and waits of one pulse on nozzle n (41_renderer.md R85). -/
def fireActions (n : Nozzle) : List SinkAction :=
  [.drive (.addrAssert n), .wait .tAddr, .drive .pulseHigh, .wait .tPulse, .drive .pulseLow, .wait .tAddr,
    .drive .addrDeassert]

/-- The nozzles a mask fires, in ascending order (41_renderer.md R83, R86). -/
def firingOrder (m : FireMask) : List Nozzle := (List.finRange 12).filter fun n => m.getLsbD n.val

/-- The whole script of a STEP whose mask is `m`: the fires one after another, then the inter-step delay
(41_renderer.md R86, R87). -/
def stepActions (m : FireMask) : List SinkAction :=
  (firingOrder m).flatMap fireActions ++ [.wait .tStepMin]

/-- The event of an action: a wait is not recorded (41_renderer.md R85). -/
def SinkAction.event? : SinkAction → Option SinkEvent
  | .drive e => some e
  | .wait _ => none

/-- The event trace of a script: the output changes without the waits (41_renderer.md R85). -/
def eventsOf (as : List SinkAction) : List SinkEvent := as.filterMap SinkAction.event?

/-- What an event does to the sink outputs (41_renderer.md R85). -/
def SinkLines.apply (x : SinkLines) : SinkEvent → SinkLines
  | .addrAssert n => { x with nozAddr := BitVec.ofNat 4 n.val, addrEn := true }
  | .pulseHigh => { x with pulse := true }
  | .pulseLow => { x with pulse := false }
  | .addrDeassert => { x with addrEn := false }

/-- The sink outputs after a sequence of events. -/
def SinkLines.run (x : SinkLines) (es : List SinkEvent) : SinkLines := es.foldl SinkLines.apply x

/-- RenderStep() (41_renderer.md R83): one snapshot of NOZ and the phase gives the mask, FIRE_MASK and STEP are
written, and the fires of the mask happen on the sink. The events of the step before it can no longer be cut: a
STEP begins only after the firing sequence and the delay of the last one (R87). -/
def renderStep (s : State) : State :=
  let m := maskOf s.lut s.noz s.stepLow
  let es := eventsOf (stepActions m)
  { s.countStep with
    fireMask := m
    sink := s.sink.run es
    sinkDone := s.sinkDone ++ s.sinkLast
    sinkLast := es }

/-- The sink event trace observed so far (60_exceptions.md R111). -/
def State.sinkTrace (s : State) : List SinkEvent := s.sinkDone ++ s.sinkLast

/-! ## Reset -/

/-- The changes `pulse <- 0 ; addr_en <- 0` as events, recorded for the outputs that were 1
(70_reset_and_hazards.md R126, log entry 6). -/
def SinkLines.lowering (x : SinkLines) : List SinkEvent :=
  (if x.pulse then [SinkEvent.pulseLow] else []) ++ (if x.addrEn then [SinkEvent.addrDeassert] else [])

/-- What is left of the last STEP's events when a RESET arrives after `k` of them: those `k`, and the outputs
driven to 0 (70_reset_and_hazards.md R126). -/
def cutEvents (k : Nat) (es : List SinkEvent) : List SinkEvent :=
  es.take k ++ (SinkLines.atReset.run (es.take k)).lowering

/-- Reset() (70_reset_and_hazards.md R120), arriving after `k` events of the last STEP (R126): every register takes
its reset value (10_state.md R21), the grayscale table and the operations not yet presented are not touched. The
free-value counter moves on only if there was something to cut (log entry 4). -/
def State.resetAfter (k : Nat) (s : State) : State :=
  { s with
    noz := Vector.replicate 12 0
    cursor := 0
    stepHigh := 0
    stepLow := 0
    fireMask := 0
    sink := SinkLines.atReset
    sinkDone := s.sinkDone ++ cutEvents k s.sinkLast
    sinkLast := []
    cuts := if s.sinkLast.isEmpty then s.cuts else s.cuts + 1 }

/-! ## The next operation -/

/-- The operation the environment presents next, with the state that is left when it has been taken: the word at
the head of the queue, decoded, or refused by name if it is reserved (30_encoding.md R53, R55). With nothing
queued the next operation is the step timer's STEP (60_exceptions.md R107, 70_reset_and_hazards.md R130, log
entry 2). -/
def nextOperation (s : State) : Except Refusal (Instr × State) :=
  match s.input with
  | [] => .ok (.step, s)
  | w :: rest =>
    match decode w with
    | .ok i => .ok (i, { s with input := rest })
    | .error r => .error (.reservedWord r)

/-- The state in which the environment presents the operation word `w` (of `nbits` bits) before everything it had
queued. A number that is no operation word is presented as a reserved word (log entry 14). -/
def State.present (s : State) (nbits w : Nat) : State :=
  { s with input := (tableWord nbits w).getD 0x300#10 :: s.input }

end Sys2Proof.Machine
end

