-- ==== Sys2Proof/Machine/Decoder.lean ====
section
/-! DEFINITION. The meanings of the BYTE operations (40_decoder.md R72, R73): each takes its wire byte through
DecodeByte. No flags, no exceptions. -/

namespace Sys2Proof.Machine

/-- BYTE.PAYLOAD.S00 (40_decoder.md R73). -/
def execBytePayloadS00 (h l : Field) (s : State) : Host.Outcome State Fault Refusal :=
  .next (decodeByte (wireByte 0b00#2 h l) s)

/-- BYTE.PAYLOAD.S01 (40_decoder.md R73). -/
def execBytePayloadS01 (h l : Field) (s : State) : Host.Outcome State Fault Refusal :=
  .next (decodeByte (wireByte 0b01#2 h l) s)

/-- BYTE.PAYLOAD.S10 (40_decoder.md R73). -/
def execBytePayloadS10 (h l : Field) (s : State) : Host.Outcome State Fault Refusal :=
  .next (decodeByte (wireByte 0b10#2 h l) s)

/-- BYTE.MARK (40_decoder.md R72). -/
def execByteMark (h l : Field) (s : State) : Host.Outcome State Fault Refusal :=
  .next (decodeByte (wireByte 0b11#2 h l) s)

end Sys2Proof.Machine
end

