-- ==== Sys2Proof/Machine/Modulator.lean ====
section
/-! DEFINITION. The meanings of STEP (41_renderer.md R83) and RESET (70_reset_and_hazards.md R120). No flags, no
exceptions. -/

namespace Sys2Proof.Machine

/-- STEP: one render step (41_renderer.md R83). -/
def execStep (s : State) : Host.Outcome State Fault Refusal :=
  .next (renderStep s)

/-- RESET (70_reset_and_hazards.md R120). How far the last STEP's firing sequence had come is a free value (R126,
log entry 4). -/
def execReset (s : State) : Host.Outcome State Fault Refusal :=
  .next (s.resetAfter (Config.resetCut s.cuts))

end Sys2Proof.Machine
end

