-- ==== Sys2Proof/Machine/Dispatch.lean ====
section
/-! DEFINITION. One arm per operation of the opcode map (30_encoding.md R54). -/

namespace Sys2Proof.Machine

def exec (i : Instr) (s : State) : Host.Outcome State Fault Refusal :=
  match i with
  | .bytePayloadS00 h l => Sys2Proof.Machine.execBytePayloadS00 h l s
  | .bytePayloadS01 h l => Sys2Proof.Machine.execBytePayloadS01 h l s
  | .bytePayloadS10 h l => Sys2Proof.Machine.execBytePayloadS10 h l s
  | .byteMark h l => Sys2Proof.Machine.execByteMark h l s
  | .step => Sys2Proof.Machine.execStep s
  | .reset => Sys2Proof.Machine.execReset s

end Sys2Proof.Machine
end

