-- ==== Sys2Proof/Machine/Step.lean ====
section
/-! DEFINITION. One step of the machine: the environment's next operation, taken and executed. -/

namespace Sys2Proof.Machine

/-- One step: the next operation (`nextOperation`) is executed on the state that is left when it has been taken; a
reserved word has no step and is refused by name (30_encoding.md R55). -/
def step (s : State) : Host.Outcome State Fault Refusal :=
  match nextOperation s with
  | .ok (i, t) => exec i t
  | .error r => .refused r

/-- `s` with the operation word `w` presented next: the very next step takes it (log entries 1 and 14). -/
def State.withFetchWord (s : State) (nbits w : Nat) : State := s.present nbits w

end Sys2Proof.Machine
end

