-- ==== Sys2Proof/WellFormed.lean ====
section
/-! DEFINITION. Well-formedness of instructions and of assembler lines. -/

namespace Sys2Proof

/-- Every instruction is well formed: its operands are 3-bit fields, and all eight values of a field are legal
encodings (30_encoding.md R56). STEP and RESET have no operand. -/
def Instr.wellFormed : Instr → Bool
  | .bytePayloadS00 _ _ => true
  | .bytePayloadS01 _ _ => true
  | .bytePayloadS10 _ _ => true
  | .byteMark _ _ => true
  | .step => true
  | .reset => true

/-- The operand ranges of the assembler notation: b in 0..255, every field in 0..7, any n >= 0
(30_encoding.md R59, R60). -/
def AsmLine.wellFormed : AsmLine → Bool
  | .byte b => decide (b < 256)
  | .mark h l => decide (h < 8) && decide (l < 8)
  | .data h l => decide (h < 8) && decide (l < 8)
  | .step => true
  | .reset => true
  | .frame v => v.toList.all fun x => decide (x < 8)
  | .steps _ => true

end Sys2Proof
end

