-- ==== Sys2Proof/Machine/Assembler.lean ====
section
/-! DEFINITION. The spec's notation for operation sequences (30_encoding.md R59, R60): the assembler and the
disassembler over lines as data, and the lines as text. Text is a list of characters. -/

namespace Sys2Proof

/-- The operation word of a marker byte: 0x0C0 + 8*h + l (30_encoding.md R59). -/
def markWord (h l : Nat) : OpWord := BitVec.ofNat 10 (0x0C0 + 8 * h + l)

/-- The operation word of a payload byte with S = 00: 8*h + l (30_encoding.md R59). -/
def dataWord (h l : Nat) : OpWord := BitVec.ofNat 10 (8 * h + l)

/-- The operation words of a line whose operands are in range (30_encoding.md R59, R60). -/
def AsmLine.words : AsmLine → List OpWord
  | .byte b => [BitVec.ofNat 10 b]
  | .mark h l => [markWord h l]
  | .data h l => [dataWord h l]
  | .step => [0x100#10]
  | .reset => [0x200#10]
  | .frame v =>
    [markWord v[0] v[1], dataWord v[2] v[3], dataWord v[4] v[5], dataWord v[6] v[7], dataWord v[8] v[9],
      dataWord v[10] v[11]]
  | .steps n => List.replicate n 0x100#10

/-- The assembler: an operand outside its range is an assembly error and has no encoding (30_encoding.md R59). -/
def assemble (a : AsmLine) : Option (List OpWord) := if a.wellFormed then some a.words else none

/-- The disassembler: S = 11 as MARK, S = 00 as DATA, S = 01 or 10 as BYTE (30_encoding.md R59). A reserved word
spells no operation and has no line. -/
def disassemble (w : OpWord) : Option AsmLine :=
  match decode w with
  | .ok (.byteMark h l) => some (.mark h.toNat l.toNat)
  | .ok (.bytePayloadS00 h l) => some (.data h.toNat l.toNat)
  | .ok (.bytePayloadS01 h l) => some (.byte (wireByte 0b01#2 h l).toNat)
  | .ok (.bytePayloadS10 h l) => some (.byte (wireByte 0b10#2 h l).toNat)
  | .ok .step => some .step
  | .ok .reset => some .reset
  | .error _ => none

/-! ## Text -/

/-- The value of a digit in base 16 (30_encoding.md R59: numbers are decimal or `0x` hexadecimal). -/
def digitValue (c : Char) : Option Nat :=
  let n := c.toNat
  if 48 ≤ n ∧ n ≤ 57 then some (n - 48)
  else if 65 ≤ n ∧ n ≤ 70 then some (n - 55)
  else if 97 ≤ n ∧ n ≤ 102 then some (n - 87)
  else none

/-- Digits of a number in a base, most significant first, onto the value read so far. -/
def readDigits (base : Nat) : Nat → List Char → Option Nat
  | acc, [] => some acc
  | acc, c :: cs =>
    match digitValue c with
    | some d => if d < base then readDigits base (acc * base + d) cs else none
    | none => none

/-- A number, decimal or `0x` hexadecimal (30_encoding.md R59). -/
def readNumber : List Char → Option Nat
  | [] => none
  | ['0', 'x'] => none
  | '0' :: 'x' :: cs => readDigits 16 0 cs
  | cs => readDigits 10 0 cs

/-- A line without its comment: `;` starts one (30_encoding.md R59). -/
def stripComment (cs : List Char) : List Char := cs.takeWhile fun c => decide (c ≠ ';')

/-- A character that separates words. -/
def isBlank (c : Char) : Bool := decide (c = ' ') || decide (c = '\t') || decide (c = '\r')

/-- The tokens of a line: words and commas. `word` is the word read so far. -/
def tokens : List Char → List Char → List (List Char)
  | [], [] => []
  | word, [] => [word]
  | word, c :: cs =>
    let rest := if isBlank c then tokens [] cs else if c = ',' then [','] :: tokens [] cs else tokens (word ++ [c]) cs
    if (isBlank c || decide (c = ',')) && !word.isEmpty then word :: rest else rest

/-- Operands: numbers separated by commas. -/
def readOperands : List (List Char) → Option (List Nat)
  | [] => none
  | [n] => (readNumber n).map fun x => [x]
  | n :: comma :: ns =>
    if comma = [','] then
      match readNumber n, readOperands ns with
      | some x, some xs => some (x :: xs)
      | _, _ => none
    else none

/-- One line from its mnemonic and operands (30_encoding.md R59, R60). -/
def readMnemonic (m : List Char) (ops : List Nat) : Option AsmLine :=
  if m = ['B', 'Y', 'T', 'E'] then
    match ops with
    | [b] => some (.byte b)
    | _ => none
  else if m = ['M', 'A', 'R', 'K'] then
    match ops with
    | [h, l] => some (.mark h l)
    | _ => none
  else if m = ['D', 'A', 'T', 'A'] then
    match ops with
    | [h, l] => some (.data h l)
    | _ => none
  else if m = ['F', 'R', 'A', 'M', 'E'] then
    match ops with
    | [a, b, c, d, e, f, g, h, i, j, k, l] => some (.frame #v[a, b, c, d, e, f, g, h, i, j, k, l])
    | _ => none
  else if m = ['S', 'T', 'E', 'P', 'S'] then
    match ops with
    | [n] => some (.steps n)
    | _ => none
  else none

/-- One line of text, if it holds an operation: `none` is an error, `some none` an empty line or a comment. -/
def readLine (cs : List Char) : Option (Option AsmLine) :=
  match tokens [] (stripComment cs) with
  | [] => some none
  | [m] =>
    if m = ['S', 'T', 'E', 'P'] then some (some .step)
    else if m = ['R', 'E', 'S', 'E', 'T'] then some (some .reset)
    else none
  | m :: ops =>
    match readOperands ops with
    | some ns => (readMnemonic m ns).map some
    | none => none

/-- Text cut into lines: one operation per line (30_encoding.md R59). `line` is the line read so far. -/
def linesOf : List Char → List Char → List (List Char)
  | line, [] => [line]
  | line, c :: cs => if c = '\n' then line :: linesOf [] cs else linesOf (line ++ [c]) cs

/-- The operation words of lines of text, or `none` where one is an error. -/
def assembleLines : List (List Char) → Option (List OpWord)
  | [] => some []
  | cs :: rest =>
    match readLine cs, assembleLines rest with
    | some none, some ws => some ws
    | some (some a), some ws => (assemble a).map fun v => v ++ ws
    | _, _ => none

/-- The assembler over text. -/
def assembleText (cs : List Char) : Option (List OpWord) := assembleLines (linesOf [] cs)

/-- A digit in base 16, in the spec's capitals. -/
def digitChar (n : Nat) : Char := if n < 10 then Char.ofNat (48 + n) else Char.ofNat (55 + n)

/-- What the disassembler prints: `MARK h, l`, `DATA h, l`, `BYTE 0xNN`, `STEP` or `RESET` (30_encoding.md R59).
`FRAME` and `STEPS` are never printed: a word is one operation. -/
def printLine : AsmLine → List Char
  | .byte b => ['B', 'Y', 'T', 'E', ' ', '0', 'x', digitChar (b / 16 % 16), digitChar (b % 16)]
  | .mark h l => ['M', 'A', 'R', 'K', ' ', digitChar h, ',', ' ', digitChar l]
  | .data h l => ['D', 'A', 'T', 'A', ' ', digitChar h, ',', ' ', digitChar l]
  | .step => ['S', 'T', 'E', 'P']
  | .reset => ['R', 'E', 'S', 'E', 'T']
  | .frame _ => []
  | .steps _ => []

end Sys2Proof
end

