-- ==== Sys2Proof/Machine/Run.lean ====
section
/-! DEFINITION. Sequences of operations: the CORE executes one totally ordered sequence of atomic operations
(20_memory.md R35), and a run is observed on its finite beginnings (60_exceptions.md R111). -/

namespace Sys2Proof.Machine

/-- The operations executed in order, stopping where one gives no next state. -/
def execAll : List Instr → State → Host.Outcome State Fault Refusal
  | [], s => .next s
  | i :: is, s =>
    match exec i s with
    | .next t => execAll is t
    | .fault r => .fault r
    | .refused r => .refused r

/-- `STEPS n`: n consecutive STEP operations (30_encoding.md R60). -/
def stepOps (n : Nat) : List Instr := List.replicate n Instr.step

/-- The BYTE operations that take a list of wire bytes, in order (30_encoding.md R53). -/
def byteOps (bs : List Byte) : List Instr := bs.map decodeByteOp

/-- The wire bytes a sequence of operations takes, in order (60_exceptions.md R108). -/
def bytesTaken (is : List Instr) : List Byte := is.filterMap Instr.byte?

/-- The queue of operation words that presents a sequence of operations (30_encoding.md R53). -/
def wordsOf (is : List Instr) : List OpWord := is.map encode

end Sys2Proof.Machine
end

