-- ==== Sys2Proof/Safety.lean ====
section
/-! DEFINITION. What a good state and a good sink trace are, in the terms the claims use: the invariant of every
reachable state (10_state.md R12, R13, R15, R18), the legal sink traces (41_renderer.md R85, R86), the pulses a
trace gives a nozzle (R91), and the environment's side of the input (60_exceptions.md R108). -/

namespace Sys2Proof.Machine

/-! ## The sink trace -/

/-- Whether an event may happen when the outputs are `x`: an address is asserted only while none is, the pulse goes
high only while an address is asserted and the pulse is low, it goes low only from high, and the address is
released only while the pulse is low (41_renderer.md R85, R86). -/
def SinkLines.allows (x : SinkLines) : SinkEvent → Bool
  | .addrAssert _ => !x.addrEn && !x.pulse
  | .pulseHigh => x.addrEn && !x.pulse
  | .pulseLow => x.addrEn && x.pulse
  | .addrDeassert => x.addrEn && !x.pulse

/-- Every event of the sequence is allowed where it happens, from the outputs `x` on. -/
def traceLegal : SinkLines → List SinkEvent → Bool
  | _, [] => true
  | x, e :: es => x.allows e && traceLegal (x.apply e) es

/-- Between fires the sink is idle: no address asserted, the pulse low (10_state.md R18). -/
def SinkLines.idle (x : SinkLines) : Bool := !x.addrEn && !x.pulse

/-- How many times the pulse goes high and then low while `noz_addr` = n is asserted, with nothing between the two
(41_renderer.md R91). `at?` is the nozzle whose address is asserted. -/
def pulsesOn (n : Nozzle) : Option Nozzle → List SinkEvent → Nat
  | _, [] => 0
  | _, .addrAssert k :: es => pulsesOn n (some k) es
  | at?, .pulseHigh :: .pulseLow :: es => (if at? = some n then 1 else 0) + pulsesOn n at? es
  | at?, .pulseHigh :: es => pulsesOn n at? es
  | at?, .pulseLow :: es => pulsesOn n at? es
  | _, .addrDeassert :: es => pulsesOn n none es

/-- The number of times the pulse goes high in a sequence of events. -/
def pulseCount (es : List SinkEvent) : Nat := es.countP fun e => decide (e = SinkEvent.pulseHigh)

/-- The time a script takes: the sum of its waits (41_renderer.md R85, R87; 70_reset_and_hazards.md R129). -/
def timeOf : List SinkAction → Nat
  | [] => 0
  | .drive _ :: as => timeOf as
  | .wait p :: as => Config.duration p + timeOf as

/-! ## The invariant -/

/-- What holds in every reachable state. -/
structure State.Inv (s : State) : Prop where
  /-- Every entry of NOZ holds a level 0..4 (10_state.md R12). -/
  levels : ∀ i : Nozzle, (s.nozzle i).toNat ≤ 4
  /-- CURSOR holds 0..5 (10_state.md R13). -/
  cursor : s.cursor.toNat ≤ 5
  /-- The grayscale table meets its constraint (10_state.md R15). -/
  table : s.lut.legal = true
  /-- Between operations the sink is idle (10_state.md R18). -/
  idle : s.sink.idle = true
  /-- Codes 12..15 are never driven (10_state.md R18). -/
  nozAddr : s.sink.nozAddr.toNat ≤ 11
  /-- FIRE_MASK is the mask of the most recent STEP: the events of that STEP are the fires of its set bits
  (10_state.md R17). -/
  lastStep : s.sinkLast = eventsOf (stepActions s.fireMask)
  /-- Everything the sink was ever driven with is legal, from the idle state back to it (41_renderer.md R85, R86). -/
  trace : traceLegal SinkLines.atReset s.sinkTrace = true
  /-- What stands before the last STEP ends with the sink idle (41_renderer.md R86, 70_reset_and_hazards.md R126). -/
  doneIdle : (SinkLines.atReset.run s.sinkDone).idle = true

/-! ## The environment -/

/-- The bytes the transport delivers are a subsequence of the bytes the host sent, in the same order
(60_exceptions.md R108). -/
def transportDelivers (sent taken : List Byte) : Prop := taken.Sublist sent

/-- A sequence of operations that takes exactly the bytes `taken`, in order, with any number of STEPs anywhere
between them and no RESET: an interleaving of the BYTE sequence with the STEP sequence (60_exceptions.md R103). -/
def interleaves (taken : List Byte) (is : List Instr) : Prop :=
  bytesTaken is = taken ∧ Instr.reset ∉ is

/-- An intact frame: a marker byte and five payload bytes, none lost (40_decoder.md R78). -/
def intactFrame (b0 b1 b2 b3 b4 b5 : Byte) : Prop :=
  isMarker b0 = true ∧ isMarker b1 = false ∧ isMarker b2 = false ∧ isMarker b3 = false ∧ isMarker b4 = false ∧
    isMarker b5 = false

/-- The register file that twelve clamped fields of a frame give (40_decoder.md R76). -/
def frameLevels (b0 b1 b2 b3 b4 b5 : Byte) : Vector Level 12 :=
  #v[lvl (highField b0), lvl (lowField b0), lvl (highField b1), lvl (lowField b1), lvl (highField b2),
    lvl (lowField b2), lvl (highField b3), lvl (lowField b3), lvl (highField b4), lvl (lowField b4),
    lvl (highField b5), lvl (lowField b5)]

end Sys2Proof.Machine
end

