-- ==== Sys2Proof/Certificates/Slice0/Obligations.lean ====
section
/-! DEFINITION. The statements for the provers. Each docstring names the rule of the spec it formalises. Where the
spec marks a rule or a sentence as its own derivation ("derived"), the docstring says so and the statement's basis
is 'derived'; "spec decision D<n>" names a choice the spec made and states as its rule. -/

open Sys2Proof Sys2Proof.Machine

/-! ## Encoding -/

/-- Decode and encode agree: every well-formed operation, with every value of its fields, is read back from its
operation word (30_encoding.md sections 2 and 3). -/
def Obligations.DecodeOfEncode : Prop :=
  ∀ i : Instr, i.wellFormed = true → decode (encode i) = .ok i

/-- Every operation word has one meaning and every operation one word: what decodes encodes back to itself
(30_encoding.md section 3). -/
def Obligations.EncodeOfDecode : Prop :=
  ∀ (w : OpWord) (i : Instr), decode w = .ok i → encode i = w

/-- The opcode map (30_encoding.md R54, marked derived in the spec): a word decodes exactly when a row of the table
selects it, and then the row is the decoded operation's own and the only one. -/
def Obligations.OpcodeMapIsCompleteAndDisjoint : Prop :=
  ∀ w : OpWord,
    ((∃ i, decode w = .ok i) ↔ ∃ r ∈ opcodeRows, r.selects w = true) ∧
    ∀ i, decode w = .ok i → ∀ r ∈ opcodeRows, (r.selects w = true ↔ r = i.row)

/-- Words written out from the spec's own examples (95_test_vectors.md 2.1) decode to the operations they stand
for, and its reserved words do not. -/
def Obligations.SpecExampleWordsDecode : Prop :=
  decode 0x000#10 = .ok (.bytePayloadS00 0 0) ∧ decode 0x03F#10 = .ok (.bytePayloadS00 7 7) ∧
  decode 0x07F#10 = .ok (.bytePayloadS01 7 7) ∧ decode 0x0BF#10 = .ok (.bytePayloadS10 7 7) ∧
  decode 0x0C0#10 = .ok (.byteMark 0 0) ∧ decode 0x0FF#10 = .ok (.byteMark 7 7) ∧
  decode 0x100#10 = .ok .step ∧ decode 0x200#10 = .ok .reset ∧
  decode 0x101#10 = .error .stepData ∧ decode 0x2FF#10 = .error .resetData ∧
  decode 0x300#10 = .error .op11 ∧ decode 0x3FF#10 = .error .op11

/-- 30_encoding.md R51: a byte is a marker byte if and only if `(b & 0xC0) = 0xC0`, which is b in 0xC0..0xFF; every
other byte is a payload byte, and bits 7:6 of a payload byte have no further effect. -/
def Obligations.MarkerClassification : Prop :=
  (∀ b : Byte, ((∃ h l, decodeByteOp b = .byteMark h l) ↔ b &&& 0xC0#8 = 0xC0#8) ∧
    ((∃ h l, decodeByteOp b = .byteMark h l) ↔ 0xC0 ≤ b.toNat) ∧
    (b.toNat ≤ 0xBF → ∃ h l, decodeByteOp b = .bytePayloadS00 h l ∨ decodeByteOp b = .bytePayloadS01 h l ∨
      decodeByteOp b = .bytePayloadS10 h l)) ∧
  ∀ (h l : Field) (s : State),
    exec (.bytePayloadS01 h l) s = exec (.bytePayloadS00 h l) s ∧
    exec (.bytePayloadS10 h l) s = exec (.bytePayloadS00 h l) s

/-- 30_encoding.md R50 and R53: a BYTE word corresponds one for one to the wire byte; the operation takes exactly
that byte, with H its bits 5:3 and L its bits 2:0 as unsigned numbers. -/
def Obligations.ByteWordIsItsWireByte : Prop :=
  ∀ b : Byte, decode (0b00#2 ++ b) = .ok (decodeByteOp b) ∧ (decodeByteOp b).byte? = some b ∧
    (highField b).toNat = b.toNat / 8 % 8 ∧ (lowField b).toNat = b.toNat % 8

/-- 30_encoding.md R56 (with spec decision D1 for the fields 5, 6 and 7): no wire byte is illegal. All 256 byte
values decode and execute from every state, and a field of 5, 6 or 7 is stored as level 4: with c the slot the byte
lands in (0 for a marker, the cursor otherwise), NOZ[2c] is 4 afterwards where the high field is 5 or more, and
NOZ[2c+1] is 4 where the low field is. -/
def Obligations.NoWireByteIsIllegal : Prop :=
  (∀ b : Byte, decode (0b00#2 ++ b) = .ok (decodeByteOp b) ∧ ∀ s : State, ∃ t, exec (decodeByteOp b) s = .next t) ∧
  ∀ (b : Byte) (s : State), s.cursor.toNat ≤ 5 → ∃ t, exec (decodeByteOp b) s = .next t ∧
    ∀ n : Nozzle,
      (n.val = 2 * (if 0xC0 ≤ b.toNat then 0 else s.cursor.toNat) → 5 ≤ b.toNat / 8 % 8 →
        (t.nozzle n).toNat = 4) ∧
      (n.val = 2 * (if 0xC0 ≤ b.toNat then 0 else s.cursor.toNat) + 1 → 5 ≤ b.toNat % 8 →
        (t.nozzle n).toNat = 4)

/-- 30_encoding.md R55 (spec decisions D12 and D21): a reserved word, of any of the three kinds, is refused by name
however long the run goes on, and every other word has a next state. -/
def Obligations.ReservedWordsAreRefused : Prop :=
  ∀ (s : State) (w : OpWord) (rest : List OpWord), s.input = w :: rest →
    (0x300 ≤ w.toNat → ∀ n, Host.Core.run Sys2Proof.core (n + 1) s = .refused (.reservedWord .op11)) ∧
    (0x101 ≤ w.toNat → w.toNat ≤ 0x1FF →
      ∀ n, Host.Core.run Sys2Proof.core (n + 1) s = .refused (.reservedWord .stepData)) ∧
    (0x201 ≤ w.toNat → w.toNat ≤ 0x2FF →
      ∀ n, Host.Core.run Sys2Proof.core (n + 1) s = .refused (.reservedWord .resetData)) ∧
    (w.toNat ≤ 0x100 ∨ w.toNat = 0x200 → ∃ t, step s = .next t)

/-! ## One step -/

/-- A step runs the decoded operation: when the word presented next decodes to `i`, the step is `exec` of `i` on
the state with that word taken off the queue; and the word that `withFetchWord` presents is the next one. How
operations come in is the model's choice (log entry 1); that each word is one operation is 30_encoding.md R53. -/
def Obligations.StepRunsTheDecodedOperation : Prop :=
  (∀ (s : State) (w : OpWord) (rest : List OpWord) (i : Instr), s.input = w :: rest → decode w = .ok i →
    step s = exec i { s with input := rest }) ∧
  ∀ (s : State) (w : OpWord) (i : Instr) (nbits : Nat), 10 ≤ nbits → decode w = .ok i →
    step (s.withFetchWord nbits w.toNat) = exec i s

/-- The model's choice of log entry 2: with nothing queued, the next operation is the step timer's STEP. -/
def Obligations.StepTimerStepsWhenNothingIsQueued : Prop :=
  ∀ s : State, s.input = [] → step s = exec .step s

/-- Presenting the words of a sequence of operations and stepping once for each is executing the sequence: the
machine takes one totally ordered sequence of operations (20_memory.md section 4; log entry 1). -/
def Obligations.RunOfAQueueIsItsSequence : Prop :=
  ∀ (is : List Instr) (s : State), s.input = [] →
    Host.Core.run Sys2Proof.core is.length { s with input := wordsOf is } = execAll is s

/-- The fairness of the step timer, in the model's form of it (log entry 2; 70_reset_and_hazards.md section 4, spec
decision D23): from a state whose queue holds no reserved word, once the queue is drained every further step is a
STEP, so STEP occurs infinitely often. -/
def Obligations.EveryStepAfterTheQueueIsASTEP : Prop :=
  ∀ s : State, (∀ w ∈ s.input, ∃ i, decode w = .ok i) → ∀ n, s.input.length ≤ n →
    ∃ u t, Host.Core.run Sys2Proof.core n s = .next u ∧ u.input = [] ∧ exec .step u = .next t ∧
      step u = .next t ∧ Host.Core.run Sys2Proof.core (n + 1) s = .next t

/-- 60_exceptions.md R100: no operation can fail. Every operation has a next state from every state, the decoder's
on every byte among them. -/
def Obligations.NoOperationCanFail : Prop :=
  ∀ (i : Instr) (s : State), ∃ t, exec i s = .next t

/-! ## The frame decoder -/

/-- 40_decoder.md R70 (spec decision D1): the clamp is applied in the decoder, before the write. A byte whose two
fields are both f stores min(f, 4) in both entries of its slot: 0, 1, 2, 3 as they are, and 4, 5, 6, 7 as 4. -/
def Obligations.FieldsAreStoredClamped : Prop :=
  ∀ (f : Field) (s : State), s.cursor.toNat ≤ 5 → ∃ t, exec (.bytePayloadS00 f f) s = .next t ∧
    ∀ n : Nozzle, n.val / 2 = s.cursor.toNat →
      (t.nozzle n).toNat = min f.toNat 4 ∧
      ((f.toNat ≤ 4 → t.nozzle n = f) ∧ (4 ≤ f.toNat → t.nozzle n = 4))

/-- 40_decoder.md R71 and R75: DecodeByte, on every byte. A marker resets the cursor first; the clamped high field goes to NOZ[2c] and the
clamped low field to NOZ[2c+1]; the cursor moves to c + 1, or to 0 after slot 5; nothing else changes. -/
def Obligations.DecodeByteResult : Prop :=
  ∀ (b : Byte) (s : State), s.cursor.toNat ≤ 5 → ∃ t, exec (decodeByteOp b) s = .next t ∧
    (∀ c : Nat, c = (if 0xC0 ≤ b.toNat then 0 else s.cursor.toNat) →
      (∀ n : Nozzle, (t.nozzle n).toNat =
        if n.val = 2 * c then min (b.toNat / 8 % 8) 4
        else if n.val = 2 * c + 1 then min (b.toNat % 8) 4
        else (s.nozzle n).toNat) ∧
      t.cursor.toNat = (if c + 1 > 5 then 0 else c + 1)) ∧
    t = { s with noz := t.noz, cursor := t.cursor }

/-- 40_decoder.md R72: BYTE.MARK, operation word `0011HHHLLL`. Whatever CURSOR was, NOZ[0] <- LVL(H),
NOZ[1] <- LVL(L), CURSOR <- 1, and nothing else changes. -/
def Obligations.ByteMarkResult : Prop :=
  ∀ (h l : Field) (s : State), decode (0b0011#4 ++ h ++ l) = .ok (.byteMark h l) ∧
    ∃ t, exec (.byteMark h l) s = .next t ∧
      (t.nozzle 0).toNat = min h.toNat 4 ∧ (t.nozzle 1).toNat = min l.toNat 4 ∧
      (∀ n : Nozzle, 2 ≤ n.val → t.nozzle n = s.nozzle n) ∧
      t.cursor = 1 ∧ t = { s with noz := t.noz, cursor := t.cursor }

/-- 40_decoder.md R73: BYTE.PAYLOAD in its three encodings. With c the cursor, NOZ[2c] <- LVL(H),
NOZ[2c+1] <- LVL(L), CURSOR <- 0 if c is 5 and c + 1 otherwise, and nothing else changes. -/
def Obligations.BytePayloadResult : Prop :=
  ∀ (h l : Field) (s : State),
    decode (0b0000#4 ++ h ++ l) = .ok (.bytePayloadS00 h l) ∧
    decode (0b0001#4 ++ h ++ l) = .ok (.bytePayloadS01 h l) ∧
    decode (0b0010#4 ++ h ++ l) = .ok (.bytePayloadS10 h l) ∧
    (s.cursor.toNat ≤ 5 →
      ∀ i ∈ [Instr.bytePayloadS00 h l, Instr.bytePayloadS01 h l, Instr.bytePayloadS10 h l],
        ∃ t, exec i s = .next t ∧
          (∀ n : Nozzle, (t.nozzle n).toNat =
            if n.val = 2 * s.cursor.toNat then min h.toNat 4
            else if n.val = 2 * s.cursor.toNat + 1 then min l.toNat 4
            else (s.nozzle n).toNat) ∧
          t.cursor.toNat = (if s.cursor.toNat = 5 then 0 else s.cursor.toNat + 1) ∧
          t = { s with noz := t.noz, cursor := t.cursor })

/-- The model's choice of log entry 10, in states that no run reaches: a payload byte at a cursor of 6 or 7 names no
entry of NOZ, writes none, and leaves the cursor at 0. -/
def Obligations.PayloadAtAnIllegalCursorWritesNothing : Prop :=
  ∀ (h l : Field) (s : State), 6 ≤ s.cursor.toNat →
    exec (.bytePayloadS00 h l) s = .next { s with cursor := 0 } ∧
    exec (.bytePayloadS01 h l) s = .next { s with cursor := 0 } ∧
    exec (.bytePayloadS10 h l) s = .next { s with cursor := 0 }

/-- The cursor law (40_decoder.md section 3, R74, marked derived in the spec): after a byte the cursor is
(c + 1) mod 6, with c = 0 for a marker and the prior cursor otherwise; it never holds 6 or 7 afterwards. -/
def Obligations.CursorLaw : Prop :=
  ∀ (b : Byte) (s : State), ∃ t, exec (decodeByteOp b) s = .next t ∧ t.cursor.toNat ≤ 5 ∧
    (0xC0 ≤ b.toNat → t.cursor.toNat = 1) ∧
    (b.toNat ≤ 0xBF → s.cursor.toNat ≤ 5 → t.cursor.toNat = (s.cursor.toNat + 1) % 6)

/-- Resynchronisation and self-healing (40_decoder.md section 3, R76 and R78, marked derived in the spec): after any
history of operations, an intact frame, with STEPs anywhere between its bytes, leaves NOZ equal to the frame's
clamped fields and the cursor at 0. -/
def Obligations.AnIntactFrameHealsEveryHistory : Prop :=
  ∀ (before is : List Instr) (s : State) (b0 b1 b2 b3 b4 b5 : Byte),
    intactFrame b0 b1 b2 b3 b4 b5 → interleaves [b0, b1, b2, b3, b4, b5] is →
    ∃ t, execAll (before ++ is) s = .next t ∧ t.noz = frameLevels b0 b1 b2 b3 b4 b5 ∧ t.cursor = 0

/-- Partial-frame visibility (40_decoder.md section 3, R79, marked derived in the spec): after the first k + 1 bytes
of a frame, a STEP sees nozzles 0 .. 2k+1 from the new frame and the other nozzles from earlier writes. -/
def Obligations.AStepSeesAPartialFrame : Prop :=
  ∀ (s : State) (b0 b1 b2 b3 b4 b5 : Byte) (k : Nat), intactFrame b0 b1 b2 b3 b4 b5 → k ≤ 5 →
    ∃ t u, execAll (byteOps ([b0, b1, b2, b3, b4, b5].take (k + 1))) s = .next t ∧ exec .step t = .next u ∧
      ∀ n : Nozzle, u.fireMask.getLsbD n.val =
        (gray s.lut (if n.val ≤ 2 * k + 1 then (frameLevels b0 b1 b2 b3 b4 b5)[n] else s.nozzle n)).getLsbD
          s.stepLow.toNat

/-- Wraparound safety (40_decoder.md section 3, R77, marked derived in the spec): of a run of payload bytes from
cursor c0, byte j lands in slot (c0 + j) mod 6, changes that slot's two entries and no other, and moves the cursor
on modulo 6. -/
def Obligations.PayloadBytesWrapAroundTheFile : Prop :=
  ∀ (s : State) (bs : List Byte) (b : Byte), s.cursor.toNat ≤ 5 → (∀ x ∈ bs ++ [b], isMarker x = false) →
    ∃ u t, execAll (byteOps bs) s = .next u ∧ execAll (byteOps (bs ++ [b])) s = .next t ∧
      u.cursor.toNat = (s.cursor.toNat + bs.length) % 6 ∧
      t.cursor.toNat = (s.cursor.toNat + bs.length + 1) % 6 ∧
      ∀ n : Nozzle, (t.nozzle n).toNat =
        if n.val = 2 * ((s.cursor.toNat + bs.length) % 6) then min (highField b).toNat 4
        else if n.val = 2 * ((s.cursor.toNat + bs.length) % 6) + 1 then min (lowField b).toNat 4
        else (u.nozzle n).toNat

/-- Several markers in a row (40_decoder.md section 2, a corner case of R72; 90_conflicts.md C1): each rewrites
nozzles 0 and 1 and leaves the cursor at 1; nozzles 2 to 11 keep what they held. -/
def Obligations.MarkersInARowWriteOnlyTwoNozzles : Prop :=
  ∀ (s : State) (bs : List Byte) (b : Byte), (∀ x ∈ bs ++ [b], isMarker x = true) →
    ∃ t, execAll (byteOps (bs ++ [b])) s = .next t ∧ t.cursor = 1 ∧
      (t.nozzle 0).toNat = min (highField b).toNat 4 ∧ (t.nozzle 1).toNat = min (lowField b).toNat 4 ∧
      ∀ n : Nozzle, 2 ≤ n.val → t.nozzle n = s.nozzle n

/-- Byte loss (60_exceptions.md section 7, R108; 70_reset_and_hazards.md section 3, R124): whichever of the host's
bytes the transport delivers, and wherever STEPs fall between them, an even nozzle holds what it held before or the
clamped high field of a byte the host sent, and an odd nozzle what it held or the clamped low field of one. -/
def Obligations.NozzlesHoldOnlyWhatTheHostSent : Prop :=
  ∀ (sent taken : List Byte) (is : List Instr) (s : State), transportDelivers sent taken → interleaves taken is →
    ∃ t, execAll is s = .next t ∧ ∀ n : Nozzle, t.nozzle n = s.nozzle n ∨
      ∃ b ∈ sent, t.nozzle n = lvl (if n.val % 2 = 0 then highField b else lowField b)

/-! ## The pulse modulator -/

/-- 10_state.md R15 (spec decision D2): the grayscale table. Level 0 is all-zero, level 4 all-one, levels 1 to 3 are
the open patterns, which meet the popcount constraint on the device, and no operation writes the table. -/
def Obligations.GrayTableContents : Prop :=
  (∀ t : GrayTable, gray t 0 = 0x00000000#32 ∧ gray t 1 = t.gray1 ∧ gray t 2 = t.gray2 ∧ gray t 3 = t.gray3 ∧
    gray t 4 = 0xFFFFFFFF#32) ∧
  (popcount State.reset.lut.gray1 ≤ popcount State.reset.lut.gray2 ∧
    popcount State.reset.lut.gray2 ≤ popcount State.reset.lut.gray3 ∧ popcount State.reset.lut.gray3 ≤ 32) ∧
  ∀ (i : Instr) (s : State), ∃ t, exec i s = .next t ∧ t.lut = s.lut

/-- Density is monotone (10_state.md section 4, R16, marked derived in the spec): of two levels 0..4, the higher
one's pattern has at least as many set bits, for every legal table. -/
def Obligations.PatternDensityIsMonotone : Prop :=
  ∀ (t : GrayTable) (l1 l2 : Level), t.legal = true → l1.toNat < l2.toNat → l2.toNat ≤ 4 →
    popcount (gray t l1) ≤ popcount (gray t l2)

/-- 41_renderer.md R81 (spec decisions D6 and D7): bit i of the mask is bit `ph`, from the least-significant end, of
the pattern of entry i's level. -/
def Obligations.MaskBitIsThePatternBit : Prop :=
  ∀ (t : GrayTable) (noz : Vector Level 12) (ph : Phase) (i : Nozzle),
    ((maskOf t noz ph).toNat / 2 ^ i.val) % 2 = ((gray t noz[i]).toNat / 2 ^ ph.toNat) % 2

/-- Lane semantics (41_renderer.md section 1, R82, marked derived in the spec): a lane depends only on its own entry
and the phase. -/
def Obligations.MaskLanesAreIndependent : Prop :=
  ∀ (t : GrayTable) (noz noz' : Vector Level 12) (ph : Phase) (i : Nozzle), noz[i] = noz'[i] →
    (maskOf t noz ph).getLsbD i.val = (maskOf t noz' ph).getLsbD i.val

/-- 41_renderer.md R83: RenderStep. FIRE_MASK takes the mask of the file and the phase before the step, STEP counts
one modulo 2^STEP_W, each set bit fires in ascending order, the sink ends idle with the last fired address (or
untouched if nothing fired), and NOZ, CURSOR, the table and the queue do not change. -/
def Obligations.StepResult : Prop :=
  ∀ s : State, decode 0x100#10 = .ok .step ∧ ∃ t, exec .step s = .next t ∧
    (∀ n : Nozzle, t.fireMask.getLsbD n.val = (gray s.lut (s.nozzle n)).getLsbD (s.stepReg.toNat % 32)) ∧
    t.stepReg.toNat = (s.stepReg.toNat + 1) % 2 ^ Config.stepW ∧
    t.sinkTrace = s.sinkTrace ++ (((List.finRange 12).filter fun n => t.fireMask.getLsbD n.val).flatMap fun n =>
      [SinkEvent.addrAssert n, .pulseHigh, .pulseLow, .addrDeassert]) ∧
    (t.fireMask = 0 → t.sink = s.sink) ∧
    (∀ n : Nozzle, t.fireMask.getLsbD n.val = true → (∀ k : Nozzle, n < k → t.fireMask.getLsbD k.val = false) →
      t.sink.addrEn = false ∧ t.sink.pulse = false ∧ t.sink.nozAddr.toNat = n.val) ∧
    t = { s with
      stepHigh := t.stepHigh, stepLow := t.stepLow, fireMask := t.fireMask, sink := t.sink,
      sinkDone := t.sinkDone, sinkLast := t.sinkLast }

/-- The step counter law (41_renderer.md section 2, R84, whose closed form the spec marks as derived): over any
sequence of operations without a RESET, STEP advances by the number of STEPs in it, modulo 2^STEP_W, and its low
five bits by that number modulo 32; STEP_W is at least 5. -/
def Obligations.StepCounterCountsTheSteps : Prop :=
  5 ≤ Config.stepW ∧ ∀ (is : List Instr) (s : State), Instr.reset ∉ is → ∃ t, execAll is s = .next t ∧
    t.stepReg.toNat = (s.stepReg.toNat + is.count .step) % 2 ^ Config.stepW ∧
    t.stepLow.toNat = t.stepReg.toNat % 32 ∧
    t.stepLow.toNat = (s.stepLow.toNat + is.count .step) % 32

/-- 41_renderer.md R85 (spec decisions D13 and D17): Fire(n). Its script is the four output changes in order with
the waits T_ADDR, T_PULSE and T_ADDR between them; its events are the four; and after each of them the outputs of
an idle sink are as the rule writes them, so `pulse` is never 1 while `addr_en` is 0. -/
def Obligations.FireDrivesOnePulse : Prop :=
  ∀ (n : Nozzle) (x : SinkLines), x.idle = true →
    fireActions n =
      [.drive (.addrAssert n), .wait .tAddr, .drive .pulseHigh, .wait .tPulse, .drive .pulseLow, .wait .tAddr,
        .drive .addrDeassert] ∧
    eventsOf (fireActions n) = [.addrAssert n, .pulseHigh, .pulseLow, .addrDeassert] ∧
    (∀ k : Nat, 1 ≤ k → k ≤ 4 →
      (x.run ((eventsOf (fireActions n)).take k)).nozAddr.toNat = n.val ∧
      (x.run ((eventsOf (fireActions n)).take k)).addrEn = decide (k ≤ 3) ∧
      (x.run ((eventsOf (fireActions n)).take k)).pulse = decide (k = 2))

/-- 41_renderer.md R86 (spec decision D8): within one STEP the fires are strictly sequential in ascending nozzle
index. The events of a mask are those of whole fires, one after another, of exactly its set bits in rising order. -/
def Obligations.FiresAreSequentialAndAscending : Prop :=
  ∀ m : FireMask, ∃ order : List Nozzle, order.Pairwise (· < ·) ∧ (∀ n, n ∈ order ↔ m.getLsbD n.val = true) ∧
    eventsOf (stepActions m) = order.flatMap fun n => [.addrAssert n, .pulseHigh, .pulseLow, .addrDeassert]

/-- One pulse per set bit (41_renderer.md section 4, R91, marked derived in the spec): a STEP gives every nozzle
whose mask bit is set exactly one high-then-low pulse while its address is asserted, every other nozzle none, and
no pulse happens otherwise. -/
def Obligations.OnePulsePerSetBit : Prop :=
  ∀ s : State, ∃ t, exec .step s = .next t ∧ t.sinkTrace = s.sinkTrace ++ t.sinkLast ∧
    (∀ n : Nozzle, pulsesOn n none t.sinkLast = if t.fireMask.getLsbD n.val then 1 else 0) ∧
    pulseCount t.sinkLast = (List.finRange 12).countP fun n => t.fireMask.getLsbD n.val

/-- The inter-step delay and the firing time (41_renderer.md section 3, R87; 70_reset_and_hazards.md section 4, R129,
its bound marked derived in the spec), in the untimed model's form of log entry 12: the script of every STEP ends
in the wait T_STEP_MIN whatever its mask, and its time is that of its fires plus that wait. -/
def Obligations.EveryStepEndsInTheMinimumDelay : Prop :=
  ∀ m : FireMask,
    (∃ fires, stepActions m = fires ++ [.wait .tStepMin] ∧
      timeOf fires ≤ 12 * (2 * Config.duration .tAddr + Config.duration .tPulse)) ∧
    timeOf (stepActions m) =
      ((List.finRange 12).countP fun n => m.getLsbD n.val) *
        (2 * Config.duration .tAddr + Config.duration .tPulse) + Config.duration .tStepMin

/-- Periodicity (41_renderer.md section 4, R88, marked derived in the spec): with NOZ held, the mask of the STEP at
counter value k is that of the STEP at k + 32. -/
def Obligations.MasksRepeatEvery32Steps : Prop :=
  ∀ (s : State) (k : Nat), ∃ t u, execAll (stepOps (k + 1)) s = .next t ∧
    execAll (stepOps (k + 32 + 1)) s = .next u ∧ t.noz = s.noz ∧ u.noz = s.noz ∧ u.fireMask = t.fireMask

/-- Duty cycle (41_renderer.md section 4, R89, marked derived in the spec): over 32 consecutive STEPs with NOZ held,
from any phase, nozzle n fires exactly popcount(GRAY(NOZ[n])) times. -/
def Obligations.DutyCycleIsThePatternDensity : Prop :=
  ∀ s : State, ∃ after : Nat → State, (∀ k, execAll (stepOps (k + 1)) s = .next (after k)) ∧
    ∀ n : Nozzle, ((List.range 32).countP fun k => (after k).fireMask.getLsbD n.val) =
      popcount (gray s.lut (s.nozzle n))

/-- A higher level never fires less (41_renderer.md section 4, R89, marked derived in the spec): over 32 STEPs from a
state that meets the invariant, of two nozzles the one at the higher level gets at least as many pulses. -/
def Obligations.HigherLevelsNeverFireLess : Prop :=
  ∀ s : State, s.Inv → ∀ n m : Nozzle, (s.nozzle n).toNat ≤ (s.nozzle m).toNat →
    ∃ after : Nat → State, (∀ k, execAll (stepOps (k + 1)) s = .next (after k)) ∧
      ((List.range 32).countP fun k => (after k).fireMask.getLsbD n.val) ≤
        (List.range 32).countP fun k => (after k).fireMask.getLsbD m.val

/-- Extreme levels, whatever the open patterns are (41_renderer.md section 4, R90, marked derived in the spec): a
nozzle at level 0 never fires, one at level 4 fires on every STEP, all at 0 give the mask 0x000 and no event, all
at 4 give 0xFFF. -/
def Obligations.ExtremeLevels : Prop :=
  ∀ (s : State) (k : Nat), ∃ t, execAll (stepOps (k + 1)) s = .next t ∧
    (∀ n : Nozzle, s.nozzle n = 0 → t.fireMask.getLsbD n.val = false) ∧
    (∀ n : Nozzle, s.nozzle n = 4 → t.fireMask.getLsbD n.val = true) ∧
    ((∀ n : Nozzle, s.nozzle n = 0) → t.fireMask = 0x000#12 ∧ t.sinkTrace = s.sinkTrace) ∧
    ((∀ n : Nozzle, s.nozzle n = 4) → t.fireMask = 0xFFF#12)

/-- A STEP works on one snapshot (20_memory.md section 4, R35, spec decision D16): the bytes taken after it, even
while its pulses are still being driven, change neither its mask nor its pulses. -/
def Obligations.BytesAfterAStepDoNotChangeIt : Prop :=
  ∀ (s : State) (bs : List Byte), ∃ t u, exec .step s = .next t ∧ execAll (.step :: byteOps bs) s = .next u ∧
    u.fireMask = t.fireMask ∧ u.sinkTrace = t.sinkTrace ∧ u.sinkLast = t.sinkLast ∧ u.sink = t.sink ∧
    u.stepReg = t.stepReg

/-! ## Reset -/

/-- 70_reset_and_hazards.md R120 (spec decisions D4, D5, D9, D15): Reset(). Every register takes its reset value; the
grayscale table and the operations not yet presented are not touched. -/
def Obligations.ResetResult : Prop :=
  ∀ s : State, decode 0x200#10 = .ok .reset ∧ ∃ t, exec .reset s = .next t ∧
    (∀ n : Nozzle, t.nozzle n = 0) ∧ t.cursor = 0 ∧ t.stepReg = 0 ∧ t.fireMask = 0x000#12 ∧
    t.sink.pulse = false ∧ t.sink.addrEn = false ∧ t.sink.nozAddr = 0 ∧ t.lut = s.lut ∧ t.input = s.input

/-- 10_state.md R21 and 70_reset_and_hazards.md R121 (spec decisions D4, D5, D9, D15): the reset values. Power-on
leaves them, and a RESET from any state leaves the same registers as power-on, the table apart, which neither
changes. -/
def Obligations.ResetValues : Prop :=
  ((∀ n : Nozzle, State.reset.nozzle n = 0) ∧ State.reset.cursor = 0 ∧ State.reset.stepReg = 0 ∧
    State.reset.fireMask = 0x000#12 ∧ State.reset.sink = { addrEn := false, nozAddr := 0, pulse := false } ∧
    gray State.reset.lut 0 = 0x00000000#32 ∧ gray State.reset.lut 4 = 0xFFFFFFFF#32) ∧
  ∀ s : State, ∃ t, exec .reset s = .next t ∧ t.noz = State.reset.noz ∧ t.cursor = State.reset.cursor ∧
    t.stepReg = State.reset.stepReg ∧ t.fireMask = State.reset.fireMask ∧ t.sink = State.reset.sink ∧ t.lut = s.lut

/-- RESET in the reset state changes nothing (70_reset_and_hazards.md section 1, a corner case of R120), in the
model's whole state: nothing in the trace either, when the last STEP left no event to cut (log entry 6). -/
def Obligations.ResetInTheResetStateChangesNothing : Prop :=
  ∀ s : State, (∀ n : Nozzle, s.nozzle n = 0) → s.cursor = 0 → s.stepReg = 0 → s.fireMask = 0 →
    s.sink = SinkLines.atReset → s.sinkLast = [] → exec .reset s = .next s

/-- While the reset input is held the CORE holds its reset state (60_exceptions.md section 8, R111): a RESET
repeated any number of times leaves what one leaves. -/
def Obligations.HeldResetIsOneReset : Prop :=
  ∀ (s : State) (n : Nat), ∃ t, exec .reset s = .next t ∧ execAll (List.replicate (n + 1) .reset) s = .next t

/-- 70_reset_and_hazards.md R126 (spec decision D24; the point of the cut is the free value of log entry 4): after a
RESET the trace of the last STEP is some first part of its events followed by the changes that drive `pulse` and
`addr_en` to 0, the registers take their reset values, and the model admits every such first part. -/
def Obligations.ResetCutsTheFiringSequence : Prop :=
  ∀ s : State,
    (∃ t p, exec .reset s = .next t ∧ p <+: s.sinkLast ∧
      t.sinkTrace = s.sinkDone ++ (p ++ (SinkLines.atReset.run p).lowering) ∧
      (SinkLines.atReset.run (p ++ (SinkLines.atReset.run p).lowering)).idle = true ∧
      t.noz = State.reset.noz ∧ t.cursor = 0 ∧ t.stepReg = 0 ∧ t.fireMask = 0 ∧ t.sink.pulse = false ∧
      t.sink.addrEn = false) ∧
    (∃ k, exec .reset s = .next (s.resetAfter k)) ∧
    ∀ p, p <+: s.sinkLast → ∃ k, (s.resetAfter k).sinkTrace =
      s.sinkDone ++ (p ++ (SinkLines.atReset.run p).lowering)

/-- Before any byte arrives the CORE steps and fires nothing (70_reset_and_hazards.md section 2, R122, spec decision
D15): after a RESET any number of STEPs leave the mask and the trace empty-handed and count on. -/
def Obligations.StepsBeforeAnyByteFireNothing : Prop :=
  ∀ (s : State) (k : Nat), ∃ r t, exec .reset s = .next r ∧ execAll (stepOps k) r = .next t ∧
    t.fireMask = 0 ∧ t.sinkTrace = r.sinkTrace ∧ t.sink = SinkLines.atReset ∧ t.stepLow.toNat = k % 32

/-- The first byte after a RESET lands in slot 0, marker or not (70_reset_and_hazards.md section 3, R127). -/
def Obligations.TheFirstByteAfterResetLandsInSlotZero : Prop :=
  ∀ (s : State) (b : Byte), ∃ t, execAll [.reset, decodeByteOp b] s = .next t ∧
    (t.nozzle 0).toNat = min (highField b).toNat 4 ∧ (t.nozzle 1).toNat = min (lowField b).toNat 4 ∧
    (∀ n : Nozzle, 2 ≤ n.val → t.nozzle n = 0) ∧ t.cursor = 1

/-! ## Whole-machine rules -/

/-- The access matrix (10_state.md section 7, R22, marked derived in the spec): what each operation leaves alone.
BYTE writes NOZ and CURSOR only; STEP writes STEP, FIRE_MASK and the sink only; RESET leaves the table. None takes
from the queue. -/
def Obligations.AccessMatrix : Prop :=
  ∀ s : State,
    (∀ b : Byte, ∃ t, exec (decodeByteOp b) s = .next t ∧ t.stepHigh = s.stepHigh ∧ t.stepLow = s.stepLow ∧
      t.fireMask = s.fireMask ∧ t.sink = s.sink ∧ t.lut = s.lut ∧ t.sinkTrace = s.sinkTrace ∧
      t.sinkLast = s.sinkLast ∧ t.cuts = s.cuts ∧ t.input = s.input ∧
      ∀ n : Nozzle, n.val / 2 ≠ (if isMarker b then 0 else s.cursor.toNat) → t.nozzle n = s.nozzle n) ∧
    (∃ t, exec .step s = .next t ∧ t.noz = s.noz ∧ t.cursor = s.cursor ∧ t.lut = s.lut ∧ t.cuts = s.cuts ∧
      t.input = s.input) ∧
    ∃ t, exec .reset s = .next t ∧ t.lut = s.lut ∧ t.input = s.input

/-- The invariant holds at reset (10_state.md R12, R13, R15, R18 in one). -/
def Obligations.InvariantHoldsAtReset : Prop := State.reset.Inv

/-- The invariant is kept by every step from every state that meets it: levels stay 0..4 and the cursor 0..5, the
table stays legal, the sink is idle between operations with a legal address, FIRE_MASK describes the last STEP's
events, and the sink trace stays legal, also when a RESET cuts a firing sequence (10_state.md sections 2, 3, 5;
41_renderer.md section 3; 70_reset_and_hazards.md section 3). -/
def Obligations.EveryStepKeepsTheInvariant : Prop :=
  ∀ s t : State, s.Inv → step s = .next t → t.Inv

/-- Every state that any operation sequence reaches from power-on holds levels 0..4 and a cursor 0..5, so the lookup
always names a defined pattern (10_state.md section 2, R12, marked derived in the spec). -/
def Obligations.ReachableStatesHoldDefinedLevels : Prop :=
  ∀ (ws : List OpWord) (n : Nat) (t : State),
    Host.Core.run Sys2Proof.core n { State.reset with input := ws } = .next t →
    (∀ i : Nozzle, (t.nozzle i).toNat ≤ 4) ∧ t.cursor.toNat ≤ 5 ∧
    ∀ i : Nozzle, gray t.lut (t.nozzle i) ∈
      [0x00000000#32, t.lut.gray1, t.lut.gray2, t.lut.gray3, 0xFFFFFFFF#32]

/-- No sequence of operations ever drives an illegal trace (41_renderer.md R85's last sentence and R86): from a state
that meets the invariant, every sequence completes, no address is asserted while another is, `pulse` is never 1
while `addr_en` is 0, and the sink is idle at its end. How the trace is recorded is the model's choice of log entry
3, and what a RESET adds to a cut firing sequence is its reading of log entry 6. -/
def Obligations.EveryRunDrivesALegalTrace : Prop :=
  ∀ (s : State) (is : List Instr), s.Inv → ∃ t, execAll is s = .next t ∧
    traceLegal SinkLines.atReset t.sinkTrace = true ∧ t.sink.idle = true

/-! ## The assembler notation -/

/-- 30_encoding.md R59 (spec decision D18): the disassembler's line for a word assembles to that word. That exactly the
reserved words have no line is the model's choice of log entry 15: R59 does not say how a reserved word is printed. -/
def Obligations.AssembleOfDisassemble : Prop :=
  ∀ w : OpWord, (∀ a, disassemble w = some a → assemble a = some [w]) ∧
    (disassemble w = none ↔ ∃ r, decode w = .error r)

/-- 30_encoding.md R59 and R60 (spec decision D18): what each line of the notation stands for, FRAME and STEPS
among them, and that an operand outside its range has no encoding. -/
def Obligations.AssemblerWords : Prop :=
  (∀ b, assemble (.byte b) = if b < 256 then some [BitVec.ofNat 10 b] else none) ∧
  (∀ h l, assemble (.mark h l) = if h < 8 ∧ l < 8 then some [BitVec.ofNat 10 (0x0C0 + 8 * h + l)] else none) ∧
  (∀ h l, assemble (.data h l) = if h < 8 ∧ l < 8 then some [BitVec.ofNat 10 (8 * h + l)] else none) ∧
  assemble .step = some [0x100#10] ∧ assemble .reset = some [0x200#10] ∧
  (∀ v : Vector Nat 12, assemble (.frame v) =
    if ∀ i : Nozzle, v[i] < 8 then
      some [BitVec.ofNat 10 (0x0C0 + 8 * v[0] + v[1]), BitVec.ofNat 10 (8 * v[2] + v[3]),
        BitVec.ofNat 10 (8 * v[4] + v[5]), BitVec.ofNat 10 (8 * v[6] + v[7]), BitVec.ofNat 10 (8 * v[8] + v[9]),
        BitVec.ofNat 10 (8 * v[10] + v[11])]
    else none) ∧
  ∀ n, assemble (.steps n) = some (List.replicate n 0x100#10)

/-- 30_encoding.md R60 and 40_decoder.md R76: FRAME expands to MARK and five DATA, and executing that expansion from
any state sets every nozzle to its clamped value and leaves the cursor at 0. -/
def Obligations.FrameSetsEveryNozzle : Prop :=
  ∀ (v : Vector Nat 12) (s : State), (∀ i : Nozzle, v[i] < 8) →
    ∃ is t, assemble (.frame v) = some (wordsOf is) ∧
      some (wordsOf is) = (do
        let w0 ← assemble (.mark v[0] v[1])
        let w1 ← assemble (.data v[2] v[3])
        let w2 ← assemble (.data v[4] v[5])
        let w3 ← assemble (.data v[6] v[7])
        let w4 ← assemble (.data v[8] v[9])
        let w5 ← assemble (.data v[10] v[11])
        pure (w0 ++ w1 ++ w2 ++ w3 ++ w4 ++ w5)) ∧
      execAll is s = .next t ∧ (∀ i : Nozzle, (t.nozzle i).toNat = min v[i] 4) ∧ t.cursor = 0
end

