-- ==== Sys2Proof/Laws/Encoding.lean ====
section
/-! SUPPORT. The fields of a wire byte and of an operation word (30_encoding.md R50, R53). -/

namespace Sys2Proof

@[simp] theorem markerField_wireByte (s : BitVec 2) (h l : Field) : markerField (wireByte s h l) = s := by
  revert s h l; decide

@[simp] theorem highField_wireByte (s : BitVec 2) (h l : Field) : highField (wireByte s h l) = h := by
  revert s h l; decide

@[simp] theorem lowField_wireByte (s : BitVec 2) (h l : Field) : lowField (wireByte s h l) = l := by
  revert s h l; decide

/-- A byte is its three fields (30_encoding.md R50). -/
theorem wireByte_fields (b : Byte) : wireByte (markerField b) (highField b) (lowField b) = b := by
  revert b; decide

/-- Only marker bits 11 make a marker (30_encoding.md R51). -/
@[simp] theorem isMarker_wireByte (s : BitVec 2) (h l : Field) :
    isMarker (wireByte s h l) = decide (s = 0b11#2) := by simp [isMarker]

end Sys2Proof
end

