-- ==== Sys2Proof/Laws/State.lean ====
section
/-! SUPPORT. One lemma per field per update of State, so that no proof unfolds a record update. -/

namespace Sys2Proof.Machine

/-! ### State.writeNozzle -/

@[simp] theorem State.writeNozzle_noz (s : State) (i : Nat) (v : Level) :
    (s.writeNozzle i v).noz = s.noz.setIfInBounds i v := rfl

@[simp] theorem State.writeNozzle_cursor (s : State) (i : Nat) (v : Level) :
    (s.writeNozzle i v).cursor = s.cursor := rfl

@[simp] theorem State.writeNozzle_stepHigh (s : State) (i : Nat) (v : Level) :
    (s.writeNozzle i v).stepHigh = s.stepHigh := rfl

@[simp] theorem State.writeNozzle_stepLow (s : State) (i : Nat) (v : Level) :
    (s.writeNozzle i v).stepLow = s.stepLow := rfl

@[simp] theorem State.writeNozzle_fireMask (s : State) (i : Nat) (v : Level) :
    (s.writeNozzle i v).fireMask = s.fireMask := rfl

@[simp] theorem State.writeNozzle_sink (s : State) (i : Nat) (v : Level) :
    (s.writeNozzle i v).sink = s.sink := rfl

@[simp] theorem State.writeNozzle_lut (s : State) (i : Nat) (v : Level) :
    (s.writeNozzle i v).lut = s.lut := rfl

@[simp] theorem State.writeNozzle_sinkDone (s : State) (i : Nat) (v : Level) :
    (s.writeNozzle i v).sinkDone = s.sinkDone := rfl

@[simp] theorem State.writeNozzle_sinkLast (s : State) (i : Nat) (v : Level) :
    (s.writeNozzle i v).sinkLast = s.sinkLast := rfl

@[simp] theorem State.writeNozzle_cuts (s : State) (i : Nat) (v : Level) :
    (s.writeNozzle i v).cuts = s.cuts := rfl

@[simp] theorem State.writeNozzle_input (s : State) (i : Nat) (v : Level) :
    (s.writeNozzle i v).input = s.input := rfl

/-! ### State.resync -/

@[simp] theorem State.resync_noz (s : State) (b : Byte) :
    (s.resync b).noz = s.noz := by
  unfold State.resync; split <;> rfl

@[simp] theorem State.resync_cursor (s : State) (b : Byte) :
    (s.resync b).cursor = if isMarker b then 0 else s.cursor := by
  unfold State.resync; split <;> rfl

@[simp] theorem State.resync_stepHigh (s : State) (b : Byte) :
    (s.resync b).stepHigh = s.stepHigh := by
  unfold State.resync; split <;> rfl

@[simp] theorem State.resync_stepLow (s : State) (b : Byte) :
    (s.resync b).stepLow = s.stepLow := by
  unfold State.resync; split <;> rfl

@[simp] theorem State.resync_fireMask (s : State) (b : Byte) :
    (s.resync b).fireMask = s.fireMask := by
  unfold State.resync; split <;> rfl

@[simp] theorem State.resync_sink (s : State) (b : Byte) :
    (s.resync b).sink = s.sink := by
  unfold State.resync; split <;> rfl

@[simp] theorem State.resync_lut (s : State) (b : Byte) :
    (s.resync b).lut = s.lut := by
  unfold State.resync; split <;> rfl

@[simp] theorem State.resync_sinkDone (s : State) (b : Byte) :
    (s.resync b).sinkDone = s.sinkDone := by
  unfold State.resync; split <;> rfl

@[simp] theorem State.resync_sinkLast (s : State) (b : Byte) :
    (s.resync b).sinkLast = s.sinkLast := by
  unfold State.resync; split <;> rfl

@[simp] theorem State.resync_cuts (s : State) (b : Byte) :
    (s.resync b).cuts = s.cuts := by
  unfold State.resync; split <;> rfl

@[simp] theorem State.resync_input (s : State) (b : Byte) :
    (s.resync b).input = s.input := by
  unfold State.resync; split <;> rfl

/-! ### State.takePayload -/

@[simp] theorem State.takePayload_noz (s : State) (h l : Field) :
    (s.takePayload h l).noz = (s.noz.setIfInBounds (evenEntry s.cursor.toNat) (lvl h)).setIfInBounds
      (oddEntry s.cursor.toNat) (lvl l) := rfl

@[simp] theorem State.takePayload_cursor (s : State) (h l : Field) :
    (s.takePayload h l).cursor = nextCursor s.cursor.toNat := rfl

@[simp] theorem State.takePayload_stepHigh (s : State) (h l : Field) :
    (s.takePayload h l).stepHigh = s.stepHigh := rfl

@[simp] theorem State.takePayload_stepLow (s : State) (h l : Field) :
    (s.takePayload h l).stepLow = s.stepLow := rfl

@[simp] theorem State.takePayload_fireMask (s : State) (h l : Field) :
    (s.takePayload h l).fireMask = s.fireMask := rfl

@[simp] theorem State.takePayload_sink (s : State) (h l : Field) :
    (s.takePayload h l).sink = s.sink := rfl

@[simp] theorem State.takePayload_lut (s : State) (h l : Field) :
    (s.takePayload h l).lut = s.lut := rfl

@[simp] theorem State.takePayload_sinkDone (s : State) (h l : Field) :
    (s.takePayload h l).sinkDone = s.sinkDone := rfl

@[simp] theorem State.takePayload_sinkLast (s : State) (h l : Field) :
    (s.takePayload h l).sinkLast = s.sinkLast := rfl

@[simp] theorem State.takePayload_cuts (s : State) (h l : Field) :
    (s.takePayload h l).cuts = s.cuts := rfl

@[simp] theorem State.takePayload_input (s : State) (h l : Field) :
    (s.takePayload h l).input = s.input := rfl

/-! ### decodeByte: the fields outside the decoder -/

@[simp] theorem decodeByte_stepHigh (b : Byte) (s : State) :
    (decodeByte b s).stepHigh = s.stepHigh := by simp [decodeByte]

@[simp] theorem decodeByte_stepLow (b : Byte) (s : State) :
    (decodeByte b s).stepLow = s.stepLow := by simp [decodeByte]

@[simp] theorem decodeByte_fireMask (b : Byte) (s : State) :
    (decodeByte b s).fireMask = s.fireMask := by simp [decodeByte]

@[simp] theorem decodeByte_sink (b : Byte) (s : State) :
    (decodeByte b s).sink = s.sink := by simp [decodeByte]

@[simp] theorem decodeByte_lut (b : Byte) (s : State) :
    (decodeByte b s).lut = s.lut := by simp [decodeByte]

@[simp] theorem decodeByte_sinkDone (b : Byte) (s : State) :
    (decodeByte b s).sinkDone = s.sinkDone := by simp [decodeByte]

@[simp] theorem decodeByte_sinkLast (b : Byte) (s : State) :
    (decodeByte b s).sinkLast = s.sinkLast := by simp [decodeByte]

@[simp] theorem decodeByte_cuts (b : Byte) (s : State) :
    (decodeByte b s).cuts = s.cuts := by simp [decodeByte]

@[simp] theorem decodeByte_input (b : Byte) (s : State) :
    (decodeByte b s).input = s.input := by simp [decodeByte]

/-! ### State.countStep -/

@[simp] theorem State.countStep_noz (s : State) :
    (s.countStep).noz = s.noz := rfl

@[simp] theorem State.countStep_cursor (s : State) :
    (s.countStep).cursor = s.cursor := rfl

@[simp] theorem State.countStep_stepHigh (s : State) :
    (s.countStep).stepHigh = if s.stepLow = 31#5 then s.stepHigh + 1 else s.stepHigh := rfl

@[simp] theorem State.countStep_stepLow (s : State) :
    (s.countStep).stepLow = s.stepLow + 1 := rfl

@[simp] theorem State.countStep_fireMask (s : State) :
    (s.countStep).fireMask = s.fireMask := rfl

@[simp] theorem State.countStep_sink (s : State) :
    (s.countStep).sink = s.sink := rfl

@[simp] theorem State.countStep_lut (s : State) :
    (s.countStep).lut = s.lut := rfl

@[simp] theorem State.countStep_sinkDone (s : State) :
    (s.countStep).sinkDone = s.sinkDone := rfl

@[simp] theorem State.countStep_sinkLast (s : State) :
    (s.countStep).sinkLast = s.sinkLast := rfl

@[simp] theorem State.countStep_cuts (s : State) :
    (s.countStep).cuts = s.cuts := rfl

@[simp] theorem State.countStep_input (s : State) :
    (s.countStep).input = s.input := rfl

/-! ### renderStep -/

@[simp] theorem renderStep_noz (s : State) :
    (renderStep s).noz = s.noz := rfl

@[simp] theorem renderStep_cursor (s : State) :
    (renderStep s).cursor = s.cursor := rfl

@[simp] theorem renderStep_stepHigh (s : State) :
    (renderStep s).stepHigh = if s.stepLow = 31#5 then s.stepHigh + 1 else s.stepHigh := rfl

@[simp] theorem renderStep_stepLow (s : State) :
    (renderStep s).stepLow = s.stepLow + 1 := rfl

@[simp] theorem renderStep_fireMask (s : State) :
    (renderStep s).fireMask = maskOf s.lut s.noz s.stepLow := rfl

@[simp] theorem renderStep_sink (s : State) :
    (renderStep s).sink = s.sink.run (eventsOf (stepActions (maskOf s.lut s.noz s.stepLow))) := rfl

@[simp] theorem renderStep_lut (s : State) :
    (renderStep s).lut = s.lut := rfl

@[simp] theorem renderStep_sinkDone (s : State) :
    (renderStep s).sinkDone = s.sinkDone ++ s.sinkLast := rfl

@[simp] theorem renderStep_sinkLast (s : State) :
    (renderStep s).sinkLast = eventsOf (stepActions (maskOf s.lut s.noz s.stepLow)) := rfl

@[simp] theorem renderStep_cuts (s : State) :
    (renderStep s).cuts = s.cuts := rfl

@[simp] theorem renderStep_input (s : State) :
    (renderStep s).input = s.input := rfl

/-! ### State.resetAfter -/

@[simp] theorem State.resetAfter_noz (s : State) (k : Nat) :
    (s.resetAfter k).noz = Vector.replicate 12 0 := rfl

@[simp] theorem State.resetAfter_cursor (s : State) (k : Nat) :
    (s.resetAfter k).cursor = 0 := rfl

@[simp] theorem State.resetAfter_stepHigh (s : State) (k : Nat) :
    (s.resetAfter k).stepHigh = 0 := rfl

@[simp] theorem State.resetAfter_stepLow (s : State) (k : Nat) :
    (s.resetAfter k).stepLow = 0 := rfl

@[simp] theorem State.resetAfter_fireMask (s : State) (k : Nat) :
    (s.resetAfter k).fireMask = 0 := rfl

@[simp] theorem State.resetAfter_sink (s : State) (k : Nat) :
    (s.resetAfter k).sink = SinkLines.atReset := rfl

@[simp] theorem State.resetAfter_lut (s : State) (k : Nat) :
    (s.resetAfter k).lut = s.lut := rfl

@[simp] theorem State.resetAfter_sinkDone (s : State) (k : Nat) :
    (s.resetAfter k).sinkDone = s.sinkDone ++ cutEvents k s.sinkLast := rfl

@[simp] theorem State.resetAfter_sinkLast (s : State) (k : Nat) :
    (s.resetAfter k).sinkLast = [] := rfl

@[simp] theorem State.resetAfter_cuts (s : State) (k : Nat) :
    (s.resetAfter k).cuts = if s.sinkLast.isEmpty then s.cuts else s.cuts + 1 := rfl

@[simp] theorem State.resetAfter_input (s : State) (k : Nat) :
    (s.resetAfter k).input = s.input := rfl

/-! ### State.present -/

@[simp] theorem State.present_noz (s : State) (nbits w : Nat) :
    (s.present nbits w).noz = s.noz := rfl

@[simp] theorem State.present_cursor (s : State) (nbits w : Nat) :
    (s.present nbits w).cursor = s.cursor := rfl

@[simp] theorem State.present_stepHigh (s : State) (nbits w : Nat) :
    (s.present nbits w).stepHigh = s.stepHigh := rfl

@[simp] theorem State.present_stepLow (s : State) (nbits w : Nat) :
    (s.present nbits w).stepLow = s.stepLow := rfl

@[simp] theorem State.present_fireMask (s : State) (nbits w : Nat) :
    (s.present nbits w).fireMask = s.fireMask := rfl

@[simp] theorem State.present_sink (s : State) (nbits w : Nat) :
    (s.present nbits w).sink = s.sink := rfl

@[simp] theorem State.present_lut (s : State) (nbits w : Nat) :
    (s.present nbits w).lut = s.lut := rfl

@[simp] theorem State.present_sinkDone (s : State) (nbits w : Nat) :
    (s.present nbits w).sinkDone = s.sinkDone := rfl

@[simp] theorem State.present_sinkLast (s : State) (nbits w : Nat) :
    (s.present nbits w).sinkLast = s.sinkLast := rfl

@[simp] theorem State.present_cuts (s : State) (nbits w : Nat) :
    (s.present nbits w).cuts = s.cuts := rfl

@[simp] theorem State.present_input (s : State) (nbits w : Nat) :
    (s.present nbits w).input = (tableWord nbits w).getD 0x300#10 :: s.input := rfl

/-! ### The state after reset -/

@[simp] theorem State.reset_noz : State.reset.noz = Vector.replicate 12 0 := rfl

@[simp] theorem State.reset_cursor : State.reset.cursor = 0 := rfl

@[simp] theorem State.reset_stepHigh : State.reset.stepHigh = 0 := rfl

@[simp] theorem State.reset_stepLow : State.reset.stepLow = 0 := rfl

@[simp] theorem State.reset_fireMask : State.reset.fireMask = 0 := rfl

@[simp] theorem State.reset_sink : State.reset.sink = SinkLines.atReset := rfl

@[simp] theorem State.reset_lut : State.reset.lut = Config.grayTable.table := rfl

@[simp] theorem State.reset_sinkDone : State.reset.sinkDone = [] := rfl

@[simp] theorem State.reset_sinkLast : State.reset.sinkLast = [] := rfl

@[simp] theorem State.reset_cuts : State.reset.cuts = 0 := rfl

@[simp] theorem State.reset_input : State.reset.input = [] := rfl

end Sys2Proof.Machine
end

