-- ==== Sys2Proof/Laws/Ops.lean ====
section
/-! SUPPORT. What each shared operation does, said once. -/

namespace Sys2Proof.Machine

/-! ## Operands -/

/-- The clamp, as a number (40_decoder.md R70). -/
@[simp] theorem lvl_toNat (f : Field) : (lvl f).toNat = min f.toNat 4 := by
  have := f.isLt
  simp only [lvl, BitVec.toNat_ofNat]
  omega

/-- Reading back a clamped field (40_decoder.md R70). -/
theorem lvl_le_four (f : Field) : (lvl f).toNat ≤ 4 := by simp

theorem nozzle_eq (s : State) (i : Nozzle) : s.nozzle i = s.noz[i] := rfl

/-- `NOZ[i] <- v` changes entry i alone. -/
theorem writeNozzle_nozzle (s : State) (k : Nat) (v : Level) (i : Nozzle) :
    (s.writeNozzle k v).nozzle i = if k = i.val then v else s.nozzle i := by
  simp [State.nozzle, Vector.getElem_setIfInBounds]

/-- The grayscale lookup at its two fixed levels (10_state.md R15). -/
@[simp] theorem gray_zero (t : GrayTable) : gray t 0 = 0 := rfl

@[simp] theorem gray_four (t : GrayTable) : gray t 4 = 0xFFFFFFFF#32 := rfl

/-- The step counter as a number: its high bits and its phase (10_state.md R14). -/
theorem stepReg_toNat (s : State) : s.stepReg.toNat = s.stepHigh.toNat * 32 + s.stepLow.toNat := by
  have := s.stepLow.isLt
  simp only [State.stepReg, BitVec.toNat_append]
  rw [← Nat.shiftLeft_add_eq_or_of_lt this, Nat.shiftLeft_eq]

/-- Two counters are equal when both parts are. -/
theorem stepReg_congr {s t : State} (h : t.stepHigh = s.stepHigh) (l : t.stepLow = s.stepLow) :
    t.stepReg = s.stepReg := by simp [State.stepReg, h, l]

/-- A counter whose two parts are 0 is 0. -/
theorem stepReg_eq_zero {s : State} (h : s.stepHigh = 0) (l : s.stepLow = 0) : s.stepReg = 0 := by
  apply BitVec.eq_of_toNat_eq
  rw [stepReg_toNat, h, l]
  simp

/-! ## The frame decoder -/

/-- The cursor after a legal slot, as a number (40_decoder.md R74). -/
theorem nextCursor_toNat {c : Nat} (h : c ≤ 5) : (nextCursor c).toNat = (c + 1) % 6 := by
  unfold nextCursor
  split
  · have : c = 5 := by omega
    subst this; rfl
  · simp only [BitVec.toNat_ofNat]; omega

/-- The cursor never holds 6 or 7 after a byte, whatever it held before (40_decoder.md R74). -/
theorem nextCursor_le (c : Nat) : (nextCursor c).toNat ≤ 5 := by
  unfold nextCursor
  split
  · decide
  · simp only [BitVec.toNat_ofNat]; omega

/-- What the payload part of DecodeByte leaves in each entry (40_decoder.md R71). -/
theorem takePayload_nozzle (s : State) (h l : Field) (i : Nozzle) :
    (s.takePayload h l).nozzle i =
      if i.val = 2 * s.cursor.toNat then lvl h
      else if i.val = 2 * s.cursor.toNat + 1 then lvl l
      else s.nozzle i := by
  have h0 : (s.takePayload h l).nozzle i =
      ((s.noz.setIfInBounds (2 * s.cursor.toNat) (lvl h)).setIfInBounds (2 * s.cursor.toNat + 1) (lvl l))[i.val] :=
    rfl
  rw [h0, nozzle_eq, Vector.getElem_setIfInBounds, Vector.getElem_setIfInBounds]
  by_cases h1 : i.val = 2 * s.cursor.toNat
  · simp [h1]
  · by_cases h2 : i.val = 2 * s.cursor.toNat + 1
    · simp [h2]
    · rw [if_neg (Ne.symm h2), if_neg (Ne.symm h1), if_neg h1, if_neg h2]; rfl

/-- The slot a byte lands in: 0 for a marker, the cursor for a payload byte (40_decoder.md R71). -/
theorem resync_cursor_toNat (s : State) (b : Byte) :
    (s.resync b).cursor.toNat = if isMarker b then 0 else s.cursor.toNat := by
  simp only [State.resync_cursor]; split <;> rfl

@[simp] theorem resync_nozzle (s : State) (b : Byte) (i : Nozzle) : (s.resync b).nozzle i = s.nozzle i := by
  simp [State.nozzle]

/-- What DecodeByte leaves in each entry (40_decoder.md R71). -/
theorem decodeByte_nozzle (b : Byte) (s : State) (i : Nozzle) :
    (decodeByte b s).nozzle i =
      if i.val = 2 * (if isMarker b then 0 else s.cursor.toNat) then lvl (highField b)
      else if i.val = 2 * (if isMarker b then 0 else s.cursor.toNat) + 1 then lvl (lowField b)
      else s.nozzle i := by
  simp only [decodeByte, takePayload_nozzle, resync_cursor_toNat, resync_nozzle]

/-- The cursor DecodeByte leaves (40_decoder.md R71, R74). -/
theorem decodeByte_cursor (b : Byte) (s : State) :
    (decodeByte b s).cursor = nextCursor (if isMarker b then 0 else s.cursor.toNat) := by
  simp only [decodeByte, State.takePayload_cursor, resync_cursor_toNat]

/-- DecodeByte changes the register file and the cursor, and nothing else (10_state.md R22). -/
theorem decodeByte_frame (b : Byte) (s : State) :
    decodeByte b s = { s with noz := (decodeByte b s).noz, cursor := (decodeByte b s).cursor } := by
  simp only [decodeByte, State.takePayload, State.writeNozzle, State.resync]
  split <;> rfl

/-! ## The pulse modulator -/

/-- One lane of the mask (41_renderer.md R81). -/
@[simp] theorem maskOf_getLsbD (t : GrayTable) (noz : Vector Level 12) (ph : Phase) (i : Nozzle) :
    (maskOf t noz ph).getLsbD i.val = (gray t noz[i]).getLsbD ph.toNat := by
  simp [maskOf]

/-- The events of Fire(n) (41_renderer.md R85). -/
@[simp] theorem eventsOf_fireActions (n : Nozzle) :
    eventsOf (fireActions n) =
      [SinkEvent.addrAssert n, SinkEvent.pulseHigh, SinkEvent.pulseLow, SinkEvent.addrDeassert] := rfl

/-- The events of a STEP are those of its fires, one after another (41_renderer.md R86). -/
theorem eventsOf_stepActions (m : FireMask) :
    eventsOf (stepActions m) = (firingOrder m).flatMap fun n =>
      [SinkEvent.addrAssert n, SinkEvent.pulseHigh, SinkEvent.pulseLow, SinkEvent.addrDeassert] := by
  simp only [stepActions, eventsOf, List.filterMap_append, List.filterMap_flatMap]
  rw [show List.filterMap SinkAction.event? [SinkAction.wait TimingParam.tStepMin] = [] from rfl,
    List.append_nil]
  rfl

/-- The nozzles a mask fires are those of its set bits (41_renderer.md R91). -/
@[simp] theorem mem_firingOrder (m : FireMask) (n : Nozzle) : n ∈ firingOrder m ↔ m.getLsbD n.val = true := by
  simp [firingOrder]

@[simp] theorem run_nil (x : SinkLines) : x.run [] = x := rfl

@[simp] theorem run_cons (x : SinkLines) (e : SinkEvent) (es : List SinkEvent) :
    x.run (e :: es) = (x.apply e).run es := rfl

@[simp] theorem run_append (x : SinkLines) (as bs : List SinkEvent) :
    x.run (as ++ bs) = (x.run as).run bs := by simp [SinkLines.run]

/-- A trace is legal when its two parts are, the second from where the first ends. -/
theorem traceLegal_append (x : SinkLines) (as bs : List SinkEvent) :
    traceLegal x (as ++ bs) = (traceLegal x as && traceLegal (x.run as) bs) := by
  induction as generalizing x with
  | nil => rfl
  | cons e es ih => simp [traceLegal, ih, Bool.and_assoc]

/-! ## Reset -/

/-- A RESET leaves, of the events of the last STEP, some first part of them, and then the outputs driven to 0
(70_reset_and_hazards.md R126). -/
theorem resetAfter_sinkTrace (s : State) (k : Nat) :
    (s.resetAfter k).sinkTrace =
      s.sinkDone ++ (s.sinkLast.take k ++ (SinkLines.atReset.run (s.sinkLast.take k)).lowering) := by
  simp [State.sinkTrace, cutEvents]

/-! ## The next operation -/

/-- With nothing queued the step timer steps (70_reset_and_hazards.md R130). -/
theorem nextOperation_nil {s : State} (h : s.input = []) : nextOperation s = .ok (.step, s) := by
  simp [nextOperation, h]

/-- A queued word that decodes is the next operation (30_encoding.md R53). -/
theorem nextOperation_ok {s : State} {w : OpWord} {rest : List OpWord} {i : Instr}
    (h : s.input = w :: rest) (d : decode w = .ok i) :
    nextOperation s = .ok (i, { s with input := rest }) := by
  simp [nextOperation, h, d]

/-- A queued word that is reserved is refused by name (30_encoding.md R55). -/
theorem nextOperation_reserved {s : State} {w : OpWord} {rest : List OpWord} {r : Reserved}
    (h : s.input = w :: rest) (d : decode w = .error r) :
    nextOperation s = .error (.reservedWord r) := by
  simp [nextOperation, h, d]

/-! ## Meanings and sequences of them -/

@[simp] theorem exec_bytePayloadS00 (h l : Field) (s : State) :
    exec (.bytePayloadS00 h l) s = .next (decodeByte (wireByte 0b00#2 h l) s) := rfl

@[simp] theorem exec_bytePayloadS01 (h l : Field) (s : State) :
    exec (.bytePayloadS01 h l) s = .next (decodeByte (wireByte 0b01#2 h l) s) := rfl

@[simp] theorem exec_bytePayloadS10 (h l : Field) (s : State) :
    exec (.bytePayloadS10 h l) s = .next (decodeByte (wireByte 0b10#2 h l) s) := rfl

@[simp] theorem exec_byteMark (h l : Field) (s : State) :
    exec (.byteMark h l) s = .next (decodeByte (wireByte 0b11#2 h l) s) := rfl

@[simp] theorem exec_step (s : State) : exec .step s = .next (renderStep s) := rfl

@[simp] theorem exec_reset (s : State) :
    exec .reset s = .next (s.resetAfter (Config.resetCut s.cuts)) := rfl

@[simp] theorem execAll_nil (s : State) : execAll [] s = .next s := rfl

/-- One operation of a sequence, then the rest. -/
theorem execAll_cons {i : Instr} {s t : State} (h : exec i s = .next t) (is : List Instr) :
    execAll (i :: is) s = execAll is t := by simp [execAll, h]

/-- A sequence in two parts: the second starts where the first ends. -/
theorem execAll_append {is : List Instr} {s t : State} (h : execAll is s = .next t) (js : List Instr) :
    execAll (is ++ js) s = execAll js t := by
  induction is generalizing s with
  | nil => simp_all [execAll]
  | cons i is ih =>
    simp only [List.cons_append, execAll] at h ⊢
    cases hi : exec i s with
    | next u => simp only [hi] at h ⊢; exact ih h
    | fault r => simp [hi] at h
    | refused r => simp [hi] at h

end Sys2Proof.Machine
end

