-- ==== Sys2Proof/Laws/PerInstr.lean ====
section
/-! SUPPORT. Statements about every instruction, as syntax. -/

namespace Sys2Proof.Laws

/-- The instruction's encoding is a word of the instruction's own row of the opcode map, and of no other row
(30_encoding.md R54). -/
def EncodesInItsRow.Statement (i : Instr) : Prop :=
  i.row ∈ opcodeRows ∧ ∀ r ∈ opcodeRows, r.selects (encode i) = decide (r = i.row)

theorem EncodesInItsRow.bytePayloadS00 (h l : Field) : EncodesInItsRow.Statement (.bytePayloadS00 h l) := by
  unfold EncodesInItsRow.Statement
  exact ⟨by simp [opcodeRows, Instr.row], by revert h l; decide⟩

theorem EncodesInItsRow.bytePayloadS01 (h l : Field) : EncodesInItsRow.Statement (.bytePayloadS01 h l) := by
  unfold EncodesInItsRow.Statement
  exact ⟨by simp [opcodeRows, Instr.row], by revert h l; decide⟩

theorem EncodesInItsRow.bytePayloadS10 (h l : Field) : EncodesInItsRow.Statement (.bytePayloadS10 h l) := by
  unfold EncodesInItsRow.Statement
  exact ⟨by simp [opcodeRows, Instr.row], by revert h l; decide⟩

theorem EncodesInItsRow.byteMark (h l : Field) : EncodesInItsRow.Statement (.byteMark h l) := by
  unfold EncodesInItsRow.Statement
  exact ⟨by simp [opcodeRows, Instr.row], by revert h l; decide⟩

theorem EncodesInItsRow.step : EncodesInItsRow.Statement .step := by
  unfold EncodesInItsRow.Statement
  exact ⟨by simp [opcodeRows, Instr.row], by decide⟩

theorem EncodesInItsRow.reset : EncodesInItsRow.Statement .reset := by
  unfold EncodesInItsRow.Statement
  exact ⟨by simp [opcodeRows, Instr.row], by decide⟩

end Sys2Proof.Laws
end

