-- ==== Sys2Proof/Laws/Step.lean ====
section
/-! SUPPORT. One more step of a run, in the machine's own terms: `Host.Core.run` over `Sys2Proof.core`. -/

namespace Sys2Proof.Machine

/-- A run whose first step has a next state goes on from it. -/
theorem run_succ_next {s t : State} (h : step s = .next t) (n : Nat) :
    Host.Core.run Sys2Proof.core (n + 1) s = Host.Core.run Sys2Proof.core n t := by
  have h' : Sys2Proof.core.step s = .next t := h
  simp only [Host.Core.run, h']

/-- A run whose first step is refused is refused. -/
theorem run_succ_refused {s : State} {r : Refusal} (h : step s = .refused r) (n : Nat) :
    Host.Core.run Sys2Proof.core (n + 1) s = .refused r := by
  have h' : Sys2Proof.core.step s = .refused r := h
  simp only [Host.Core.run, h']

end Sys2Proof.Machine
end

