-- ==== Sys2Proof/Tests/Slice0.lean ====
section
/-! SUPPORT. Tests. Expected values come from the spec: the vectors of 95_test_vectors.md by their id, or the
encodings of 30_encoding.md R54 written out bit by bit. The last part gives, for every statement with hypotheses,
a concrete state and operands that meet them. -/

namespace Sys2Proof.Tests

open Sys2Proof Sys2Proof.Machine

/-! ## Helpers -/

/-- The reference table of 92_eei_decisions.md D3, for vectors marked [ref-LUT]. -/
def refTable : GrayTable := ⟨0x11111111#32, 0x55555555#32, 0x77777777#32⟩

/-- A state with the given register file, cursor and phase, and the reference table. -/
def st (noz : Vector Level 12) (cursor : BitVec 3) (phase : Phase) : State :=
  { State.reset with noz := noz, cursor := cursor, stepLow := phase, lut := refTable }

/-- All twelve entries at one level. -/
def allAt (l : Level) : Vector Level 12 := Vector.replicate 12 l

/-- The next state, where there is one. -/
def nextOf (o : Host.Outcome State Fault Refusal) (s : State) : State :=
  match o with
  | .next t => t
  | _ => s

/-- The state after one operation. -/
def after (i : Instr) (s : State) : State := nextOf (exec i s) s

/-- Whether a step is refused for this reason. -/
def refusedFor (o : Host.Outcome State Fault Refusal) (r : Refusal) : Bool :=
  match o with
  | .refused q => decide (q = r)
  | _ => false

/-! ## Well-formedness: each check refuses an ill-formed line (30_encoding.md R59) -/

theorem test_byte_out_of_range : (AsmLine.byte 256).wellFormed = false := by decide
theorem test_mark_high_out_of_range : (AsmLine.mark 8 0).wellFormed = false := by decide
theorem test_mark_low_out_of_range : (AsmLine.mark 0 8).wellFormed = false := by decide
theorem test_data_high_out_of_range : (AsmLine.data 8 0).wellFormed = false := by decide
theorem test_data_low_out_of_range : (AsmLine.data 0 8).wellFormed = false := by decide
theorem test_frame_out_of_range : (AsmLine.frame #v[0, 0, 0, 0, 0, 0, 0, 0, 0, 0, 0, 8]).wellFormed = false := by
  decide
theorem test_well_formed_lines :
    (AsmLine.byte 255).wellFormed = true ∧ (AsmLine.mark 7 7).wellFormed = true ∧
      (AsmLine.data 7 7).wellFormed = true ∧
      (AsmLine.frame #v[7, 7, 7, 7, 7, 7, 7, 7, 7, 7, 7, 7]).wellFormed = true := by decide
theorem test_instr_well_formed : (Instr.byteMark 7 7).wellFormed = true := by decide

/-! ## Decoding: words written out from the bit patterns of 30_encoding.md R54 -/

theorem test_decode_s00 : decode 0b0000101011#10 = .ok (.bytePayloadS00 0b101 0b011) := by decide
theorem test_decode_s01 : decode 0b0001110001#10 = .ok (.bytePayloadS01 0b110 0b001) := by decide
theorem test_decode_s10 : decode 0b0010001100#10 = .ok (.bytePayloadS10 0b001 0b100) := by decide
theorem test_decode_mark : decode 0b0011100101#10 = .ok (.byteMark 0b100 0b101) := by decide
theorem test_decode_step : decode 0b0100000000#10 = .ok .step := by decide
theorem test_decode_reset : decode 0b1000000000#10 = .ok .reset := by decide
theorem test_decode_reserved :
    decode 0b0100000001#10 = .error .stepData ∧ decode 0b1010000000#10 = .error .resetData ∧
      decode 0b1100000000#10 = .error .op11 := by decide
theorem test_table_word : decodeTableWord 16 0x0C0 = some (.byteMark 0 0) ∧ decodeTableWord 10 0x100 = some .step ∧
    decodeTableWord 16 0x400 = none := by decide

/-! ## One step of each operation -/

/-- 95_test_vectors.md M2: CURSOR = 3, b = 0xE5. -/
theorem test_mark_m2 :
    (after (.byteMark 4 5) (st (allAt 2) 3 0)).noz = #v[4, 4, 2, 2, 2, 2, 2, 2, 2, 2, 2, 2] ∧
      (after (.byteMark 4 5) (st (allAt 2) 3 0)).cursor = 1 := by decide

/-- M3: CURSOR = 5, b = 0xFF leaves the cursor at 1, not 0. -/
theorem test_mark_m3 : (after (.byteMark 7 7) (st (allAt 0) 5 0)).cursor = 1 := by decide

/-- P2: CURSOR = 5, b = 0x1A. -/
theorem test_s00_p2 :
    (after (.bytePayloadS00 3 2) (st (allAt 1) 5 0)).noz = #v[1, 1, 1, 1, 1, 1, 1, 1, 1, 1, 3, 2] ∧
      (after (.bytePayloadS00 3 2) (st (allAt 1) 5 0)).cursor = 0 := by decide

/-- P7: CURSOR = 3, b = 0x33. -/
theorem test_s00_p7 :
    (after (.bytePayloadS00 6 3) (st (allAt 1) 3 0)).noz = #v[1, 1, 1, 1, 1, 1, 4, 3, 1, 1, 1, 1] ∧
      (after (.bytePayloadS00 6 3) (st (allAt 1) 3 0)).cursor = 4 := by decide

/-- P8: CURSOR = 1, b = 0x48. -/
theorem test_s01_p8 :
    (after (.bytePayloadS01 1 0) (st (allAt 2) 1 0)).noz = #v[2, 2, 1, 0, 2, 2, 2, 2, 2, 2, 2, 2] ∧
      (after (.bytePayloadS01 1 0) (st (allAt 2) 1 0)).cursor = 2 := by decide

/-- P5: CURSOR = 2, b = 0xBF. -/
theorem test_s10_p5 :
    (after (.bytePayloadS10 7 7) (st (allAt 0) 2 0)).noz = #v[0, 0, 0, 0, 4, 4, 0, 0, 0, 0, 0, 0] ∧
      (after (.bytePayloadS10 7 7) (st (allAt 0) 2 0)).cursor = 3 := by decide

/-- S3: alternating levels 4 and 0 at phase 31: mask 0x555, the phase wraps, the last fired address stays. -/
theorem test_step_s3 :
    (after .step (st #v[4, 0, 4, 0, 4, 0, 4, 0, 4, 0, 4, 0] 0 31)).fireMask = 0x555#12 ∧
      (after .step (st #v[4, 0, 4, 0, 4, 0, 4, 0, 4, 0, 4, 0] 0 31)).stepLow = 0 ∧
      (after .step (st #v[4, 0, 4, 0, 4, 0, 4, 0, 4, 0, 4, 0] 0 31)).sink =
        { addrEn := false, nozAddr := 10, pulse := false } := by decide

/-- S7 [ref-LUT], its third STEP (phase 2). -/
theorem test_step_s7 : (after .step (st #v[1, 2, 3, 1, 2, 3, 1, 2, 3, 1, 2, 3] 0 2)).fireMask = 0xDB6#12 := by
  decide

/-- V-SRC-6 item 4 [ref-LUT]: the first three masks, from the mask function. -/
theorem test_mask_src6 :
    maskOf refTable #v[1, 4, 0, 2, 0, 3, 3, 3, 3, 1, 0, 3] 0 = 0xBEB#12 ∧
      maskOf refTable #v[1, 4, 0, 2, 0, 3, 3, 3, 3, 1, 0, 3] 1 = 0x9E2#12 ∧
      maskOf refTable #v[1, 4, 0, 2, 0, 3, 3, 3, 3, 1, 0, 3] 2 = 0x9EA#12 ∧
      maskOf refTable #v[1, 4, 0, 2, 0, 3, 3, 3, 3, 1, 0, 3] 3 = 0x002#12 := by decide

/-- Program 3 [ref-LUT]: the masks at phases 0 to 3. -/
theorem test_mask_program3 :
    maskOf refTable #v[0, 1, 2, 3, 4, 4, 4, 4, 0, 1, 2, 3] 0 = 0xEFE#12 ∧
      maskOf refTable #v[0, 1, 2, 3, 4, 4, 4, 4, 0, 1, 2, 3] 1 = 0x8F8#12 ∧
      maskOf refTable #v[0, 1, 2, 3, 4, 4, 4, 4, 0, 1, 2, 3] 2 = 0xCFC#12 ∧
      maskOf refTable #v[0, 1, 2, 3, 4, 4, 4, 4, 0, 1, 2, 3] 3 = 0x0F0#12 := by decide

/-- T3: one Fire(5) is four events, with the address 0b0101 while it is asserted. -/
theorem test_fire_t3 :
    eventsOf (fireActions 5) = [.addrAssert 5, .pulseHigh, .pulseLow, .addrDeassert] ∧
      (SinkLines.atReset.run [.addrAssert 5, .pulseHigh]) =
        { addrEn := true, nozAddr := 0b0101, pulse := true } := by decide

/-- A state with registers of R1 in 95_test_vectors.md 2.6, as 70_reset_and_hazards.md R120's example has them. -/
def beforeReset : State := { st (allAt 3) 4 13 with fireMask := 0xABC#12 }

/-- R1: RESET. -/
theorem test_reset_r1 :
    (after .reset beforeReset).noz = allAt 0 ∧ (after .reset beforeReset).cursor = 0 ∧
      (after .reset beforeReset).stepLow = 0 ∧ (after .reset beforeReset).fireMask = 0 ∧
      (after .reset beforeReset).sink = SinkLines.atReset := by decide

/-- T2: a RESET after two events of a STEP (the pulse is high) leaves those two and drives both lines low; after
all four events of a fire it adds nothing. -/
theorem test_reset_cut_t2 :
    cutEvents 2 (eventsOf (fireActions 0)) =
        [.addrAssert 0, .pulseHigh, .pulseLow, .addrDeassert] ∧
      cutEvents 1 (eventsOf (fireActions 0)) = [.addrAssert 0, .addrDeassert] ∧
      cutEvents 0 (eventsOf (fireActions 0)) = [] ∧
      cutEvents 4 (eventsOf (fireActions 0)) = eventsOf (fireActions 0) := by decide

/-- T1: the word 0x300 has no step. -/
theorem test_reserved_t1 : refusedFor (step (State.reset.withFetchWord 16 0x300)) (.reservedWord .op11) = true := by
  decide

/-- R2 of 2.6, its second operation: BYTE 0x12 right after reset, presented as a word. -/
theorem test_fetch_word :
    (nextOf (step (State.reset.withFetchWord 16 0x012)) State.reset).noz =
      #v[2, 2, 0, 0, 0, 0, 0, 0, 0, 0, 0, 0] := by decide

/-! ## The assembler notation -/

/-- 30_encoding.md R59: a commented line of text, and the line of Program 1. -/
theorem test_assemble_text :
    assembleText ['M', 'A', 'R', 'K', ' ', '1', ',', ' ', '1', ' ', ';', 'x', '\n', 'B', 'Y', 'T', 'E', ' ', '0', 'x',
      '2', 'A', '\n', '\n', 'S', 'T', 'E', 'P', 'S', ' ', '2', '\n', 'R', 'E', 'S', 'E', 'T'] =
      some [0x0C9#10, 0x02A#10, 0x100#10, 0x100#10, 0x200#10] := by decide

/-- Program 3 of 95_test_vectors.md: the words of its FRAME. -/
theorem test_assemble_frame : assemble (.frame #v[0, 1, 2, 3, 4, 5, 6, 7, 0, 1, 2, 3]) =
    some [0x0C1#10, 0x013#10, 0x025#10, 0x037#10, 0x001#10, 0x013#10] := by decide

/-- 30_encoding.md R59, R60: a FRAME with one operand of 8 has no encoding. -/
theorem test_assemble_frame_error : assemble (.frame #v[0, 0, 0, 0, 0, 0, 0, 0, 0, 0, 0, 8]) = none := by decide

theorem test_assemble_error : assembleText ['D', 'A', 'T', 'A', ' ', '8', ',', '0'] = none := by decide

/-- 95_test_vectors.md 2.1: what the disassembler prints for 0x07F, 0x0C0 and 0x03F. -/
theorem test_print :
    (disassemble 0x07F#10).map printLine = some ['B', 'Y', 'T', 'E', ' ', '0', 'x', '7', 'F'] ∧
      (disassemble 0x0C0#10).map printLine = some ['M', 'A', 'R', 'K', ' ', '0', ',', ' ', '0'] ∧
      (disassemble 0x03F#10).map printLine = some ['D', 'A', 'T', 'A', ' ', '7', ',', ' ', '7'] := by decide

/-! ## Witnesses: states and operands that meet the statements' hypotheses -/

/-- A state after a STEP that fired every nozzle, with a mixed file and bytes and a RESET still to come. -/
def midRun : State :=
  { st #v[0, 1, 2, 3, 4, 4, 0, 1, 2, 3, 4, 4] 5 8 with
    fireMask := 0xFFF#12
    sink := { addrEn := false, nozAddr := 11, pulse := false }
    sinkLast := eventsOf (stepActions 0xFFF#12)
    input := [0x01A#10, 0x0C9#10, 0x100#10, 0x200#10] }

theorem witness_inv : midRun.Inv :=
  ⟨by decide, by decide, by decide, by decide, by decide, by decide, by decide, by decide⟩

theorem witness_DecodeOfEncode : (Instr.bytePayloadS10 7 0).wellFormed = true := by decide

theorem witness_EncodeOfDecode : decode 0x0FF#10 = .ok (.byteMark 7 7) := by decide

theorem witness_OpcodeMapIsCompleteAndDisjoint :
    decode 0x03F#10 = .ok (.bytePayloadS00 7 7) ∧
      ∃ r ∈ opcodeRows, r.selects 0x03F#10 = true ∧ r = (Instr.bytePayloadS00 7 7).row := by decide

theorem witness_MarkerClassification :
    decodeByteOp 0xC0#8 = .byteMark 0 0 ∧ (0xBF#8).toNat ≤ 0xBF ∧ (0x00#8).toNat ≤ 0xBF := by decide

/-- A payload byte with fields 5 and 7 at slot 5, and a marker byte with the same fields, which lands in slot 0. -/
theorem witness_NoWireByteIsIllegal :
    midRun.cursor.toNat ≤ 5 ∧
      ((10 : Nozzle).val = 2 * (if 0xC0 ≤ (0x2F#8).toNat then 0 else midRun.cursor.toNat) ∧
        5 ≤ (0x2F#8).toNat / 8 % 8) ∧
      ((11 : Nozzle).val = 2 * (if 0xC0 ≤ (0x2F#8).toNat then 0 else midRun.cursor.toNat) + 1 ∧
        5 ≤ (0x2F#8).toNat % 8) ∧
      ((0 : Nozzle).val = 2 * (if 0xC0 ≤ (0xEF#8).toNat then 0 else midRun.cursor.toNat) ∧
        5 ≤ (0xEF#8).toNat / 8 % 8) ∧
      ((1 : Nozzle).val = 2 * (if 0xC0 ≤ (0xEF#8).toNat then 0 else midRun.cursor.toNat) + 1 ∧
        5 ≤ (0xEF#8).toNat % 8) := by decide

/-- Each clause of the reserved words at both ends of its range. -/
theorem witness_ReservedWordsAreRefused :
    ({ midRun with input := [0x300#10] } : State).input = 0x300#10 :: [] ∧
      (0x300 ≤ (0x300#10).toNat ∧ 0x300 ≤ (0x3FF#10).toNat) ∧
      (0x101 ≤ (0x101#10).toNat ∧ (0x101#10).toNat ≤ 0x1FF ∧ 0x101 ≤ (0x1FF#10).toNat ∧ (0x1FF#10).toNat ≤ 0x1FF) ∧
      (0x201 ≤ (0x201#10).toNat ∧ (0x201#10).toNat ≤ 0x2FF ∧ 0x201 ≤ (0x2FF#10).toNat ∧ (0x2FF#10).toNat ≤ 0x2FF) ∧
      ((0x000#10).toNat ≤ 0x100 ∧ (0x100#10).toNat ≤ 0x100 ∧ (0x200#10).toNat = 0x200) := by decide

theorem witness_StepRunsTheDecodedOperation :
    midRun.input = 0x01A#10 :: [0x0C9#10, 0x100#10, 0x200#10] ∧ decode 0x01A#10 = .ok (.bytePayloadS00 3 2) ∧
      10 ≤ 10 := by decide

theorem witness_StepTimerStepsWhenNothingIsQueued : (st (allAt 4) 2 7).input = [] := by decide

theorem witness_RunOfAQueueIsItsSequence : (st (allAt 4) 2 7).input = [] := by decide

theorem witness_EveryStepAfterTheQueueIsASTEP :
    (∀ w ∈ midRun.input, ∃ i, decode w = .ok i) ∧ midRun.input.length ≤ 4 := by
  refine ⟨?_, by decide⟩
  intro w hw
  have h : w ∈ [0x01A#10, 0x0C9#10, 0x100#10, 0x200#10] := hw
  simp only [List.mem_cons, List.not_mem_nil, or_false] at h
  obtain rfl | rfl | rfl | rfl := h
  · exact ⟨.bytePayloadS00 3 2, by decide⟩
  · exact ⟨.byteMark 1 1, by decide⟩
  · exact ⟨.step, by decide⟩
  · exact ⟨.reset, by decide⟩

theorem witness_FieldsAreStoredClamped :
    (st (allAt 1) 5 0).cursor.toNat ≤ 5 ∧ (11 : Nozzle).val / 2 = (st (allAt 1) 5 0).cursor.toNat ∧
      (4#3 : Field).toNat ≤ 4 ∧ 4 ≤ (4#3 : Field).toNat := by decide

theorem witness_DecodeByteResult :
    midRun.cursor.toNat ≤ 5 ∧ 0 = (if 0xC0 ≤ (0xC0#8).toNat then 0 else midRun.cursor.toNat) ∧
      5 = (if 0xC0 ≤ (0xBF#8).toNat then 0 else midRun.cursor.toNat) := by decide

theorem witness_BytePayloadResult : (st (allAt 1) 0 0).cursor.toNat ≤ 5 ∧ midRun.cursor.toNat ≤ 5 ∧
    Instr.bytePayloadS10 1 2 ∈ [Instr.bytePayloadS00 1 2, Instr.bytePayloadS01 1 2, Instr.bytePayloadS10 1 2] := by
  decide

theorem witness_PayloadAtAnIllegalCursorWritesNothing :
    6 ≤ (st (allAt 1) 6 0).cursor.toNat ∧ 6 ≤ (st (allAt 1) 7 0).cursor.toNat := by decide

theorem witness_CursorLaw : 0xC0 ≤ (0xC0#8).toNat ∧ (0xBF#8).toNat ≤ 0xBF ∧ midRun.cursor.toNat ≤ 5 := by decide

/-- V-SRC-3's frame, with a STEP between its second and third byte and one at the end. -/
theorem witness_AnIntactFrameHealsEveryHistory :
    intactFrame 0xFF#8 0x3F#8 0x3F#8 0x3F#8 0x3F#8 0x3F#8 ∧
      interleaves [0xFF#8, 0x3F#8, 0x3F#8, 0x3F#8, 0x3F#8, 0x3F#8]
        [.byteMark 7 7, .bytePayloadS00 7 7, .step, .bytePayloadS00 7 7, .bytePayloadS00 7 7, .bytePayloadS00 7 7,
          .bytePayloadS00 7 7, .step] := by
  unfold intactFrame interleaves; decide

theorem witness_AStepSeesAPartialFrame :
    intactFrame 0xC0#8 0x00#8 0x40#8 0x80#8 0xBF#8 0x3F#8 ∧ 0 ≤ 5 ∧ 5 ≤ 5 := by
  unfold intactFrame; decide

/-- V-SRC-5's seven payload bytes. -/
theorem witness_PayloadBytesWrapAroundTheFile :
    (st (allAt 0) 0 0).cursor.toNat ≤ 5 ∧
      ∀ x ∈ [0x09#8, 0x09#8, 0x09#8, 0x09#8, 0x09#8, 0x09#8] ++ [0x1B#8], isMarker x = false := by decide

theorem witness_MarkersInARowWriteOnlyTwoNozzles :
    (∀ x ∈ [0xFF#8, 0xFF#8, 0xFF#8, 0xFF#8, 0xFF#8] ++ [0xFF#8], isMarker x = true) ∧ 2 ≤ (2 : Nozzle).val := by decide

theorem witness_NozzlesHoldOnlyWhatTheHostSent :
    transportDelivers [0xC9#8, 0x12#8, 0x3F#8] [0xC9#8, 0x3F#8] ∧
      interleaves [0xC9#8, 0x3F#8] [.byteMark 1 1, .step, .bytePayloadS00 7 7] := by
  unfold transportDelivers interleaves; decide

theorem witness_PatternDensityIsMonotone :
    refTable.legal = true ∧ (0#3 : Level).toNat < (4#3 : Level).toNat ∧ (4#3 : Level).toNat ≤ 4 := by decide

theorem witness_MaskLanesAreIndependent : (allAt 4)[(0 : Nozzle)] = (midRun.noz.set 0 4)[(0 : Nozzle)] := by decide

/-- Both clauses about the sink: a STEP that fires nothing, and one whose highest fired nozzle is 10. -/
theorem witness_StepResult :
    (after .step (st (allAt 0) 0 0)).fireMask = 0 ∧
      (after .step (st #v[4, 0, 4, 0, 4, 0, 4, 0, 4, 0, 4, 0] 0 31)).fireMask.getLsbD 10 = true ∧
      ∀ k : Nozzle, 10 < k →
        (after .step (st #v[4, 0, 4, 0, 4, 0, 4, 0, 4, 0, 4, 0] 0 31)).fireMask.getLsbD k.val = false := by decide

theorem witness_StepCounterCountsTheSteps : Instr.reset ∉ [Instr.step, .byteMark 1 2, .step] := by decide

theorem witness_FireDrivesOnePulse : SinkLines.atReset.idle = true ∧ 1 ≤ 1 ∧ 1 ≤ 4 ∧ 4 ≤ 4 := by decide

theorem witness_HigherLevelsNeverFireLess :
    midRun.Inv ∧ (midRun.nozzle 1).toNat ≤ (midRun.nozzle 4).toNat := ⟨witness_inv, by decide⟩

theorem witness_ExtremeLevels :
    (∀ n : Nozzle, (st (allAt 0) 0 0).nozzle n = 0) ∧ (∀ n : Nozzle, (st (allAt 4) 0 31).nozzle n = 4) ∧
      midRun.nozzle 0 = 0 ∧ midRun.nozzle 4 = 4 := by decide

theorem witness_ResetInTheResetStateChangesNothing :
    (∀ n : Nozzle, (st (allAt 0) 0 0).nozzle n = 0) ∧ (st (allAt 0) 0 0).cursor = 0 ∧
      (st (allAt 0) 0 0).stepReg = 0 ∧ (st (allAt 0) 0 0).fireMask = 0 ∧
      (st (allAt 0) 0 0).sink = SinkLines.atReset ∧ (st (allAt 0) 0 0).sinkLast = [] :=
  ⟨by decide, by decide, stepReg_eq_zero (by decide) (by decide), by decide, by decide, by decide⟩

/-- T2's second beginning: one address and its pulse. -/
theorem witness_ResetCutsTheFiringSequence : [SinkEvent.addrAssert 0, .pulseHigh] <+: midRun.sinkLast := by decide

theorem witness_AccessMatrix :
    (1 : Nozzle).val / 2 ≠ (if isMarker 0x3F#8 then 0 else midRun.cursor.toNat) ∧
      (2 : Nozzle).val / 2 ≠ (if isMarker 0xFF#8 then 0 else midRun.cursor.toNat) := by decide

theorem witness_EveryStepKeepsTheInvariant :
    midRun.Inv ∧ step midRun = .next (nextOf (step midRun) midRun) := ⟨witness_inv, rfl⟩

theorem witness_ReachableStatesHoldDefinedLevels :
    Host.Core.run Sys2Proof.core 1 { State.reset with input := [0x0FF#10] } =
      .next (nextOf (step { State.reset with input := [0x0FF#10] }) State.reset) := rfl

theorem witness_EveryRunDrivesALegalTrace : midRun.Inv := witness_inv

theorem witness_AssembleOfDisassemble : disassemble 0x0FF#10 = some (.mark 7 7) ∧ disassemble 0x300#10 = none := by
  decide

theorem witness_FrameSetsEveryNozzle :
    ∀ i : Nozzle, (#v[0, 1, 2, 3, 4, 5, 6, 7, 0, 1, 2, 3] : Vector Nat 12)[i] < 8 := by decide

end Sys2Proof.Tests
end

section
/-! The grayscale table and the reset values (10_state.md R15, R21). -/

namespace Sys2Proof.Machine

/-! ## The grayscale table -/

@[simp] theorem gray_one (t : GrayTable) : gray t 1 = t.gray1 := rfl

@[simp] theorem gray_two (t : GrayTable) : gray t 2 = t.gray2 := rfl

@[simp] theorem gray_three (t : GrayTable) : gray t 3 = t.gray3 := rfl

/-- The upper bound of the popcount constraint (10_state.md R15) holds of every pattern. -/
theorem popcount_le (p : Pattern) : popcount p ≤ 32 := by
  calc popcount p ≤ (List.range 32).length := List.countP_le_length
    _ = 32 := List.length_range

/-- The check of a table, as the constraint it stands for (10_state.md R15). -/
theorem legal_iff (t : GrayTable) :
    t.legal = true ↔ popcount t.gray1 ≤ popcount t.gray2 ∧ popcount t.gray2 ≤ popcount t.gray3 := by
  simp [GrayTable.legal]

/-- The device's table meets its constraint whatever it holds: its type carries the proof. -/
theorem reset_lut_legal : State.reset.lut.legal = true := Config.grayTable.legal

/-- Every operation completes and leaves the grayscale table as it was (10_state.md R15). -/
theorem exec_keeps_lut (i : Instr) (s : State) : ∃ t, exec i s = .next t ∧ t.lut = s.lut := by
  cases i with
  | bytePayloadS00 h l => exact ⟨_, exec_bytePayloadS00 h l s, decodeByte_lut _ s⟩
  | bytePayloadS01 h l => exact ⟨_, exec_bytePayloadS01 h l s, decodeByte_lut _ s⟩
  | bytePayloadS10 h l => exact ⟨_, exec_bytePayloadS10 h l s, decodeByte_lut _ s⟩
  | byteMark h l => exact ⟨_, exec_byteMark h l s, decodeByte_lut _ s⟩
  | step => exact ⟨_, exec_step s, renderStep_lut s⟩
  | reset => exact ⟨_, exec_reset s, State.resetAfter_lut s _⟩

/-- Settles O25: the lookup level by level, the constraint carried by the power-on table, and the frame of every
operation. -/
theorem grayTableContents : Obligations.GrayTableContents := by
  refine ⟨fun t => ⟨gray_zero t, gray_one t, gray_two t, gray_three t, gray_four t⟩, ?_, exec_keeps_lut⟩
  obtain ⟨h12, h23⟩ := (legal_iff State.reset.lut).1 reset_lut_legal
  exact ⟨h12, h23, popcount_le _⟩

/-! ## The reset values -/

@[simp] theorem reset_nozzle (n : Nozzle) : State.reset.nozzle n = 0 := by
  simp [nozzle_eq]

@[simp] theorem reset_stepReg : State.reset.stepReg = 0 :=
  stepReg_eq_zero State.reset_stepHigh State.reset_stepLow

/-- A RESET, however far the last STEP had come, clears the whole step counter (70_reset_and_hazards.md R120). -/
@[simp] theorem resetAfter_stepReg (s : State) (k : Nat) : (s.resetAfter k).stepReg = 0 :=
  stepReg_eq_zero (State.resetAfter_stepHigh s k) (State.resetAfter_stepLow s k)

/-- Settles O41: the power-on values, and a RESET from any state against them, register by register. -/
theorem resetValues : Obligations.ResetValues := by
  constructor
  · exact ⟨reset_nozzle, State.reset_cursor, reset_stepReg, State.reset_fireMask, State.reset_sink,
      gray_zero _, gray_four _⟩
  · intro s
    refine ⟨_, exec_reset s, ?_⟩
    simp

end Sys2Proof.Machine
end

section
/-! The wire bytes: their three fields as numbers, the marker test, and what a byte's operation does
(30_encoding.md R50, R51, R53, R56). -/

namespace Sys2Proof

/-! ## The fields of a byte as numbers -/

theorem markerField_toNat (b : Byte) : (markerField b).toNat = b.toNat / 64 := by
  have := b.isLt
  simp only [markerField, BitVec.extractLsb'_toNat, Nat.shiftRight_eq_div_pow]
  omega

theorem highField_toNat (b : Byte) : (highField b).toNat = b.toNat / 8 % 8 := by
  simp [highField, Nat.shiftRight_eq_div_pow]

theorem lowField_toNat (b : Byte) : (lowField b).toNat = b.toNat % 8 := by
  simp [lowField]

/-! ## The marker test -/

/-- The test as a range of bytes (30_encoding.md R51). -/
theorem isMarker_iff_le (b : Byte) : isMarker b = true ↔ 0xC0 ≤ b.toNat := by
  have := b.isLt
  rw [isMarker, decide_eq_true_iff, ← BitVec.toNat_inj, markerField_toNat, BitVec.toNat_ofNat]
  omega

/-- The test as a bit mask (30_encoding.md R51): 0xC0 is the byte whose marker bits alone are set. -/
theorem isMarker_iff_and (b : Byte) : isMarker b = true ↔ b &&& 0xC0#8 = 0xC0#8 := by
  revert b; decide

/-- Marker bits that are none of 11, 10 and 01 are 00: the last branch of the byte decoder. -/
theorem markerBits_eq_zero {m : BitVec 2} (h3 : m ≠ 0b11#2) (h2 : m ≠ 0b10#2) (h1 : m ≠ 0b01#2) : m = 0b00#2 := by
  bv_omega

theorem decodeByteOp_of_isMarker {b : Byte} (hb : isMarker b = true) :
    decodeByteOp b = .byteMark (highField b) (lowField b) :=
  if_pos (of_decide_eq_true hb)

/-- A byte that is no marker is a payload byte of one of the three spellings (30_encoding.md R51, R54). -/
theorem decodeByteOp_of_not_isMarker {b : Byte} (hb : ¬ isMarker b = true) :
    decodeByteOp b = .bytePayloadS00 (highField b) (lowField b) ∨
      decodeByteOp b = .bytePayloadS01 (highField b) (lowField b) ∨
      decodeByteOp b = .bytePayloadS10 (highField b) (lowField b) := by
  have hm : markerField b ≠ 0b11#2 := fun h => hb (decide_eq_true h)
  rw [decodeByteOp, if_neg hm]
  split
  · exact .inr (.inr rfl)
  · split
    · exact .inr (.inl rfl)
    · exact .inl rfl

/-- The decoder and the marker test agree (30_encoding.md R51). -/
theorem decodeByteOp_eq_byteMark_iff (b : Byte) :
    (∃ h l, decodeByteOp b = .byteMark h l) ↔ isMarker b = true := by
  constructor
  · rintro ⟨h, l, hd⟩
    by_contra hb
    obtain hp | hp | hp := decodeByteOp_of_not_isMarker hb <;> simp [hp] at hd
  · intro hb
    exact ⟨_, _, decodeByteOp_of_isMarker hb⟩

/-- The operation word of a wire byte decodes to the byte's operation (30_encoding.md R53). -/
theorem decode_byteWord (b : Byte) : decode (0b00#2 ++ b) = .ok (decodeByteOp b) := by
  have ho : opField (0b00#2 ++ b) = 0b00#2 := BitVec.extractLsb'_append_eq_left
  have hd : dataField (0b00#2 ++ b) = b := BitVec.extractLsb'_append_eq_right
  rw [decode, if_pos ho, hd]

end Sys2Proof

namespace Sys2Proof.Machine

/-! ## What a byte's operation does -/

/-- Each of the four BYTE meanings takes the byte that spells it through DecodeByte, so the operation of a byte is
DecodeByte of that byte (40_decoder.md R72, R73). -/
theorem exec_decodeByteOp (b : Byte) (s : State) : exec (decodeByteOp b) s = .next (decodeByte b s) := by
  have hb := wireByte_fields b
  unfold decodeByteOp
  split
  case isTrue h3 => rw [exec_byteMark, ← h3, hb]
  case isFalse h3 =>
    split
    case isTrue h2 => rw [exec_bytePayloadS10, ← h2, hb]
    case isFalse h2 =>
      split
      case isTrue h1 => rw [exec_bytePayloadS01, ← h1, hb]
      case isFalse h1 => rw [exec_bytePayloadS00, ← markerBits_eq_zero h3 h2 h1, hb]

/-- A payload byte is taken by its two fields alone: which of the three payload codes stands in its marker bits has
no effect (30_encoding.md R51, 40_decoder.md R73). -/
theorem decodeByte_payload {m : BitVec 2} (hm : m ≠ 0b11#2) (h l : Field) (s : State) :
    decodeByte (wireByte m h l) s = s.takePayload h l := by
  simp [decodeByte, State.resync, hm]

/-- The slot a byte lands in, told by the byte's number (30_encoding.md R51, 40_decoder.md R71). -/
theorem ite_isMarker_eq (b : Byte) (c : Nat) :
    (if isMarker b then 0 else c) = if 0xC0 ≤ b.toNat then 0 else c := by
  simp only [isMarker_iff_le]

/-- The fields 5, 6 and 7 are stored as level 4 (spec decision D1). -/
theorem lvl_eq_four {f : Field} (hf : 5 ≤ f.toNat) : (lvl f).toNat = 4 := by
  rw [lvl_toNat]
  omega

/-! ## The obligations -/

/-- Settles O5: both forms of the marker test, the payload bytes below it, and the payload codes 01 and 10 against
00 from every state. -/
theorem markerClassification : Obligations.MarkerClassification := by
  refine ⟨fun b => ⟨?_, ?_, ?_⟩, fun h l s => ⟨?_, ?_⟩⟩
  · exact (decodeByteOp_eq_byteMark_iff b).trans (isMarker_iff_and b)
  · exact (decodeByteOp_eq_byteMark_iff b).trans (isMarker_iff_le b)
  · intro hle
    have hb : ¬ isMarker b = true := by
      rw [isMarker_iff_le]
      omega
    exact ⟨_, _, decodeByteOp_of_not_isMarker hb⟩
  · rw [exec_bytePayloadS01, exec_bytePayloadS00, decodeByte_payload (by decide), decodeByte_payload (by decide)]
  · rw [exec_bytePayloadS10, exec_bytePayloadS00, decodeByte_payload (by decide), decodeByte_payload (by decide)]

/-- Settles O7: every byte is one operation and that operation is DecodeByte, whose two writes are clamped. -/
theorem noWireByteIsIllegal : Obligations.NoWireByteIsIllegal := by
  refine ⟨fun b => ⟨decode_byteWord b, fun s => ⟨_, exec_decodeByteOp b s⟩⟩, fun b s _ => ?_⟩
  refine ⟨_, exec_decodeByteOp b s, fun n => ?_⟩
  rw [decodeByte_nozzle, ite_isMarker_eq]
  constructor
  · intro hn hf
    rw [if_pos hn]
    exact lvl_eq_four (by rwa [highField_toNat])
  · intro hn hf
    rw [if_neg (by omega), if_pos hn]
    exact lvl_eq_four (by rwa [lowField_toNat])

end Sys2Proof.Machine
end

section
/-! The frame decoder: the clamp, the payload part of DecodeByte as numbers, and the BYTE operations one by one
(40_decoder.md R70 to R73). -/

namespace Sys2Proof

/-! ## The operation words of the BYTE operations -/

/-- The operation word of a BYTE operation is the spelling of its wire byte under the code 00 (30_encoding.md R53). -/
theorem byteWord_eq (m : BitVec 2) (h l : Field) : (0b00#2 ++ m) ++ h ++ l = 0b00#2 ++ wireByte m h l := by
  revert m h l; decide

/-- A BYTE pattern of the opcode map decodes to the operation of the wire byte it spells (30_encoding.md R53, R54). -/
theorem decode_bytePattern (m : BitVec 2) (h l : Field) :
    decode ((0b00#2 ++ m) ++ h ++ l) = .ok (decodeByteOp (wireByte m h l)) := by
  rw [byteWord_eq, decode_byteWord]

theorem decode_word_byteMark (h l : Field) : decode (0b0011#4 ++ h ++ l) = .ok (.byteMark h l) := by
  refine (decode_bytePattern 0b11#2 h l).trans ?_
  simp [decodeByteOp]

theorem decode_word_payloadS00 (h l : Field) : decode (0b0000#4 ++ h ++ l) = .ok (.bytePayloadS00 h l) := by
  refine (decode_bytePattern 0b00#2 h l).trans ?_
  simp [decodeByteOp]

theorem decode_word_payloadS01 (h l : Field) : decode (0b0001#4 ++ h ++ l) = .ok (.bytePayloadS01 h l) := by
  refine (decode_bytePattern 0b01#2 h l).trans ?_
  simp [decodeByteOp]

theorem decode_word_payloadS10 (h l : Field) : decode (0b0010#4 ++ h ++ l) = .ok (.bytePayloadS10 h l) := by
  refine (decode_bytePattern 0b10#2 h l).trans ?_
  simp [decodeByteOp]

end Sys2Proof

namespace Sys2Proof.Machine

/-! ## The clamp -/

/-- The levels 0 to 4 are stored as they are (40_decoder.md R70). -/
theorem lvl_eq_self {f : Field} (hf : f.toNat ≤ 4) : lvl f = f := by
  apply BitVec.eq_of_toNat_eq
  rw [lvl_toNat, min_eq_left hf]

/-- The fields 4 to 7 are stored as the highest level (40_decoder.md R70). -/
theorem lvl_eq_max {f : Field} (hf : 4 ≤ f.toNat) : lvl f = 4 := by
  apply BitVec.eq_of_toNat_eq
  rw [lvl_toNat, min_eq_right hf]
  rfl

/-! ## The payload part of DecodeByte -/

/-- The cursor after a legal slot, told by the wrap after slot 5 (40_decoder.md R71, R73). -/
theorem nextCursor_toNat_eq_ite {c : Nat} (hc : c ≤ 5) : (nextCursor c).toNat = if c = 5 then 0 else c + 1 := by
  rw [nextCursor_toNat hc]
  split <;> omega

/-- Each entry as a number (40_decoder.md R71, R73). -/
theorem takePayload_nozzle_toNat (s : State) (h l : Field) (n : Nozzle) :
    ((s.takePayload h l).nozzle n).toNat =
      if n.val = 2 * s.cursor.toNat then min h.toNat 4
      else if n.val = 2 * s.cursor.toNat + 1 then min l.toNat 4
      else (s.nozzle n).toNat := by
  simp only [takePayload_nozzle, apply_ite BitVec.toNat, lvl_toNat]

/-- Of two equal fields, both entries of the slot hold the one level. -/
theorem takePayload_nozzle_of_slot {s : State} {n : Nozzle} (hn : n.val / 2 = s.cursor.toNat) (f : Field) :
    (s.takePayload f f).nozzle n = lvl f := by
  rw [takePayload_nozzle]
  obtain he | ho : n.val = 2 * s.cursor.toNat ∨ n.val = 2 * s.cursor.toNat + 1 := by omega
  · rw [if_pos he]
  · rw [if_neg (by omega), if_pos ho]

/-- The entries of other slots keep what they held. -/
theorem takePayload_nozzle_of_ne_slot {s : State} {n : Nozzle} (hn : n.val / 2 ≠ s.cursor.toNat) (h l : Field) :
    (s.takePayload h l).nozzle n = s.nozzle n := by
  rw [takePayload_nozzle, if_neg (by omega), if_neg (by omega)]

/-- The payload part changes the register file and the cursor, and nothing else (40_decoder.md R71). -/
theorem takePayload_frame (s : State) (h l : Field) :
    s.takePayload h l = { s with noz := (s.takePayload h l).noz, cursor := (s.takePayload h l).cursor } := rfl

/-! ## The BYTE operations -/

/-- BYTE.PAYLOAD is the payload part alone, in each of its three encodings (40_decoder.md R73). -/
theorem exec_payload {h l : Field} {i : Instr}
    (hi : i ∈ [Instr.bytePayloadS00 h l, Instr.bytePayloadS01 h l, Instr.bytePayloadS10 h l]) (s : State) :
    exec i s = .next (s.takePayload h l) := by
  simp only [List.mem_cons, List.not_mem_nil, or_false] at hi
  obtain rfl | rfl | rfl := hi
  · rw [exec_bytePayloadS00, decodeByte_payload (by decide)]
  · rw [exec_bytePayloadS01, decodeByte_payload (by decide)]
  · rw [exec_bytePayloadS10, decodeByte_payload (by decide)]

/-- BYTE.MARK is the payload part from cursor 0, whatever the cursor was (40_decoder.md R72). -/
theorem exec_byteMark_eq_takePayload (h l : Field) (s : State) :
    exec (.byteMark h l) s = .next (({ s with cursor := 0 } : State).takePayload h l) := by
  simp [decodeByte, State.resync]

/-! ## The obligations -/

/-- Settles O15: the operation of a byte is DecodeByte, whose entries and cursor are told by the slot c. -/
theorem decodeByteResult : Obligations.DecodeByteResult := by
  intro b s hs
  refine ⟨_, exec_decodeByteOp b s, fun c hc => ⟨fun n => ?_, ?_⟩, decodeByte_frame b s⟩
  · rw [decodeByte_nozzle, ite_isMarker_eq, ← hc]
    simp only [apply_ite BitVec.toNat, lvl_toNat, highField_toNat, lowField_toNat]
  · have hle : c ≤ 5 := by
      rw [hc]
      split <;> omega
    rw [decodeByte_cursor, ite_isMarker_eq, ← hc, nextCursor_toNat hle]
    split <;> omega

/-- Settles O16: a marker is a payload taken at slot 0, from any cursor. -/
theorem byteMarkResult : Obligations.ByteMarkResult := by
  refine fun h l s => ⟨decode_word_byteMark h l, _, exec_byteMark_eq_takePayload h l s, ?_, ?_, ?_, rfl, rfl⟩
  · exact takePayload_nozzle_toNat _ h l 0
  · exact takePayload_nozzle_toNat _ h l 1
  · intro n hn
    have hslot : n.val / 2 ≠ ({ s with cursor := 0 } : State).cursor.toNat := by
      change n.val / 2 ≠ 0
      omega
    exact takePayload_nozzle_of_ne_slot hslot h l

/-- Settles O17: the three patterns by the byte they spell, the three meanings by the one payload part. -/
theorem bytePayloadResult : Obligations.BytePayloadResult := by
  refine fun h l s => ⟨decode_word_payloadS00 h l, decode_word_payloadS01 h l, decode_word_payloadS10 h l, ?_⟩
  intro hc i hi
  refine ⟨_, exec_payload hi s, takePayload_nozzle_toNat s h l, ?_, takePayload_frame s h l⟩
  rw [State.takePayload_cursor, nextCursor_toNat_eq_ite hc]

/-- Settles O14: both entries of the slot hold the clamp of the field, told by number and by case. -/
theorem fieldsAreStoredClamped : Obligations.FieldsAreStoredClamped := by
  intro f s _
  refine ⟨_, exec_payload (List.mem_cons_self : Instr.bytePayloadS00 f f ∈ _) s, fun n hn => ?_⟩
  rw [takePayload_nozzle_of_slot hn]
  exact ⟨lvl_toNat f, lvl_eq_self, lvl_eq_max⟩

end Sys2Proof.Machine
end

section
/-! The pulse modulator: the mask as a number, the outputs during and after a fire, the firing order, and RenderStep
(41_renderer.md R81, R83, R85, R86). -/

namespace Sys2Proof

/-- A bit of a word, read arithmetically from the least-significant end (00_scope.md R7). -/
theorem toNat_div_two_pow_mod_two {w : Nat} (x : BitVec w) (k : Nat) :
    x.toNat / 2 ^ k % 2 = (x.getLsbD k).toNat := by
  rw [← BitVec.testBit_toNat, Nat.toNat_testBit]

end Sys2Proof

namespace Sys2Proof.Machine

/-! ## The outputs during and after a fire -/

theorem idle_iff (x : SinkLines) : x.idle = true ↔ x.addrEn = false ∧ x.pulse = false := by
  simp [SinkLines.idle]

/-- The address port is 4 bits wide, so every nozzle index fits it (10_state.md R18). -/
theorem nozAddr_toNat (n : Nozzle) : (BitVec.ofNat 4 n.val).toNat = n.val := by
  rw [BitVec.toNat_ofNat, Nat.mod_eq_of_lt (by omega)]

/-- The idle outputs that a fire of nozzle n leaves (41_renderer.md R85). -/
def SinkLines.idleAt (n : Nozzle) : SinkLines := { addrEn := false, nozAddr := BitVec.ofNat 4 n.val, pulse := false }

/-- A whole fire writes all three outputs, so what they were before does not matter (41_renderer.md R85). -/
theorem run_eventsOf_fireActions (x : SinkLines) (n : Nozzle) :
    x.run (eventsOf (fireActions n)) = SinkLines.idleAt n := rfl

/-- Of fires in a row, the last one alone decides the outputs. -/
theorem run_flatMap_fires_concat (x : SinkLines) (pre : List Nozzle) (n : Nozzle) :
    x.run ((pre ++ [n]).flatMap fun k => eventsOf (fireActions k)) = SinkLines.idleAt n := by
  rw [List.flatMap_append, run_append, List.flatMap_singleton, run_eventsOf_fireActions]

/-! ## The firing order -/

/-- The nozzles of a mask are fired in rising order (41_renderer.md R86). -/
theorem firingOrder_pairwise (m : FireMask) : (firingOrder m).Pairwise (· < ·) :=
  (List.pairwise_lt_finRange 12).filter _

theorem firingOrder_zero : firingOrder 0 = [] := by decide

/-- The highest set bit of a mask is fired last: in the rising order nothing can follow it. -/
theorem firingOrder_eq_concat {m : FireMask} {n : Nozzle} (hn : m.getLsbD n.val = true)
    (habove : ∀ k : Nozzle, n < k → m.getLsbD k.val = false) : ∃ pre, firingOrder m = pre ++ [n] := by
  obtain ⟨pre, post, hsplit⟩ := List.append_of_mem ((mem_firingOrder m n).2 hn)
  have hpost : post = [] := by
    refine List.eq_nil_iff_forall_not_mem.2 fun k hk => ?_
    have hpair := firingOrder_pairwise m
    rw [hsplit, List.pairwise_append] at hpair
    obtain ⟨-, hrising, -⟩ := hpair
    have hset : m.getLsbD k.val = true := (mem_firingOrder m k).1 (by simp [hsplit, hk])
    have hclear : m.getLsbD k.val = false := habove k (List.rel_of_pairwise_cons hrising hk)
    exact Bool.noConfusion (hset.symm.trans hclear)
  exact ⟨pre, by rw [hsplit, hpost]⟩

/-! ## RenderStep -/

/-- A STEP with an empty mask does not touch the outputs (41_renderer.md R83). -/
theorem run_stepActions_zero (x : SinkLines) : x.run (eventsOf (stepActions 0)) = x := by
  rw [eventsOf_stepActions, firingOrder_zero, List.flatMap_nil, run_nil]

/-- After a STEP the outputs are those of a fire of the mask's highest set bit (41_renderer.md R83, R86). -/
theorem run_stepActions_of_highest (x : SinkLines) {m : FireMask} {n : Nozzle} (hn : m.getLsbD n.val = true)
    (habove : ∀ k : Nozzle, n < k → m.getLsbD k.val = false) :
    x.run (eventsOf (stepActions m)) = SinkLines.idleAt n := by
  obtain ⟨pre, hpre⟩ := firingOrder_eq_concat hn habove
  rw [eventsOf_stepActions, hpre]
  exact run_flatMap_fires_concat x pre n

/-- The phase is the step counter modulo 32 (10_state.md R14). -/
theorem stepReg_toNat_mod (s : State) : s.stepReg.toNat % 32 = s.stepLow.toNat := by
  have := s.stepLow.isLt
  rw [stepReg_toNat]
  omega

/-- The two parts of the step counter count as the one register that they are (41_renderer.md R84). -/
theorem renderStep_stepReg_toNat (s : State) :
    (renderStep s).stepReg.toNat = (s.stepReg.toNat + 1) % 2 ^ Config.stepW := by
  have hhigh := s.stepHigh.isLt
  have hlow := s.stepLow.isLt
  rw [stepReg_toNat, stepReg_toNat, renderStep_stepHigh, renderStep_stepLow, Nat.pow_add]
  by_cases hcarry : s.stepLow = 31#5
  · rw [if_pos hcarry, hcarry]
    calc (s.stepHigh + 1).toNat * 32 + (31#5 + 1).toNat
        = (s.stepHigh.toNat + 1) % 2 ^ Config.stepExtra * 32 := by simp [BitVec.toNat_add]
      _ = (s.stepHigh.toNat * 32 + 31 + 1) % (2 ^ Config.stepExtra * 32) := by
          rw [← Nat.mul_mod_mul_right, Nat.add_mul]
  · have hne : s.stepLow.toNat ≠ 31 := fun h => hcarry (BitVec.eq_of_toNat_eq h)
    have hlow' : (s.stepLow + 1).toNat = s.stepLow.toNat + 1 :=
      BitVec.toNat_add_of_lt (show s.stepLow.toNat + 1 < 2 ^ 5 by omega)
    rw [if_neg hcarry, hlow', ← Nat.add_assoc, Nat.mod_eq_of_lt (by omega)]

/-- A STEP appends the events of its mask to the trace, and cuts nothing (41_renderer.md R83, R86). -/
theorem renderStep_sinkTrace (s : State) :
    (renderStep s).sinkTrace = s.sinkTrace ++ eventsOf (stepActions (renderStep s).fireMask) := rfl

/-- STEP changes the counter, the mask, the outputs and the trace, and nothing else (41_renderer.md R83). -/
theorem renderStep_frame (s : State) :
    renderStep s = { s with
      stepHigh := (renderStep s).stepHigh, stepLow := (renderStep s).stepLow, fireMask := (renderStep s).fireMask,
      sink := (renderStep s).sink, sinkDone := (renderStep s).sinkDone, sinkLast := (renderStep s).sinkLast } := rfl

theorem decode_word_step : decode 0x100#10 = .ok .step := by decide

/-! ## The obligations -/

/-- Settles O29: the mask by its lanes, the counter as one register, and the sink by the last fire of the mask. -/
theorem stepResult : Obligations.StepResult := by
  refine fun s => ⟨decode_word_step, _, exec_step s, fun n => ?_, renderStep_stepReg_toNat s, ?_, ?_, ?_,
    renderStep_frame s⟩
  · rw [renderStep_fireMask, maskOf_getLsbD, stepReg_toNat_mod, nozzle_eq]
  · rw [renderStep_sinkTrace, eventsOf_stepActions, firingOrder]
  · intro hzero
    rw [renderStep_fireMask] at hzero
    rw [renderStep_sink, hzero, run_stepActions_zero]
  · intro n hn habove
    rw [renderStep_fireMask] at hn habove
    rw [renderStep_sink, run_stepActions_of_highest s.sink hn habove]
    exact ⟨rfl, rfl, nozAddr_toNat n⟩

/-- Settles O32: the order is the mask's firing order. -/
theorem firesAreSequentialAndAscending : Obligations.FiresAreSequentialAndAscending :=
  fun m => ⟨firingOrder m, firingOrder_pairwise m, mem_firingOrder m, eventsOf_stepActions m⟩

/-- Settles O27: both sides are the same bit, read arithmetically. -/
theorem maskBitIsThePatternBit : Obligations.MaskBitIsThePatternBit := by
  intro t noz ph i
  rw [toNat_div_two_pow_mod_two, toNat_div_two_pow_mod_two, maskOf_getLsbD]

/-- Settles O31: the outputs after each of the four events; that the sink was idle matters after the first alone,
which does not drive `pulse`. -/
theorem fireDrivesOnePulse : Obligations.FireDrivesOnePulse := by
  intro n x hx
  obtain ⟨-, hpulse⟩ := (idle_iff x).1 hx
  refine ⟨rfl, eventsOf_fireActions n, fun k hle hge => ?_⟩
  rw [eventsOf_fireActions]
  obtain rfl | rfl | rfl | rfl : k = 1 ∨ k = 2 ∨ k = 3 ∨ k = 4 := by omega
  · exact ⟨nozAddr_toNat n, rfl, hpulse⟩
  · exact ⟨nozAddr_toNat n, rfl, rfl⟩
  · exact ⟨nozAddr_toNat n, rfl, rfl⟩
  · exact ⟨nozAddr_toNat n, rfl, rfl⟩

end Sys2Proof.Machine
end

section
/-! The absence of exceptions (60_exceptions.md R100). -/

namespace Sys2Proof.Machine

/-- Settles O13: `exec_keeps_lut` names the completed state of each operation in turn, whatever the state before;
here the table it leaves alone does not matter. -/
theorem noOperationCanFail : Obligations.NoOperationCanFail := by
  intro i s
  obtain ⟨t, completes, -⟩ := exec_keeps_lut i s
  exact ⟨t, completes⟩

end Sys2Proof.Machine
end

section
/-! The result of RESET (70_reset_and_hazards.md R120). -/

namespace Sys2Proof.Machine

theorem decode_word_reset : decode 0x200#10 = .ok .reset := by decide

@[simp] theorem resetAfter_nozzle (s : State) (k : Nat) (n : Nozzle) : (s.resetAfter k).nozzle n = 0 := by
  simp [nozzle_eq]

/-- Settles O40: wherever the RESET cuts the last firing sequence, each register is at its reset value; the sink
outputs are the three lines of `SinkLines.atReset`. -/
theorem resetResult : Obligations.ResetResult := by
  intro s
  have sinkLines := State.resetAfter_sink s (Config.resetCut s.cuts)
  exact ⟨decode_word_reset, _, exec_reset s, resetAfter_nozzle s _, State.resetAfter_cursor s _,
    resetAfter_stepReg s _, State.resetAfter_fireMask s _, congrArg SinkLines.pulse sinkLines,
    congrArg SinkLines.addrEn sinkLines, congrArg SinkLines.nozAddr sinkLines, State.resetAfter_lut s _,
    State.resetAfter_input s _⟩

end Sys2Proof.Machine
end

section
/-! The encoder against the decoder, the opcode map, and the reserved words (30_encoding.md R53, R54, R55). -/

namespace Sys2Proof

/-! ## The two fields of an operation word -/

theorem word_fields (w : OpWord) : opField w ++ dataField w = w :=
  BitVec.extractLsb'_append_extractLsb'_eq_extractLsb' (by decide) |>.trans (by simp)

theorem opField_toNat (w : OpWord) : (opField w).toNat = w.toNat / 256 := by
  have := w.isLt
  simp only [opField, BitVec.extractLsb'_toNat, Nat.shiftRight_eq_div_pow]
  omega

theorem dataField_toNat (w : OpWord) : (dataField w).toNat = w.toNat % 256 := by
  simp [dataField]

/-- The operation code by its number. -/
theorem opField_eq {w : OpWord} {c : BitVec 2} (h : w.toNat / 256 = c.toNat) : opField w = c :=
  BitVec.eq_of_toNat_eq ((opField_toNat w).trans h)

theorem dataField_ne_zero {w : OpWord} (h : w.toNat % 256 ≠ 0) : dataField w ≠ 0#8 := by
  rw [← dataField_toNat] at h
  exact fun hz => h (by simp [hz])

/-! ## Encode and decode -/

/-- A byte is a marker or one of the three spellings of a payload byte, of some two fields (30_encoding.md R50). -/
theorem exists_eq_wireByte (b : Byte) :
    ∃ h l, b = wireByte 0b00#2 h l ∨ b = wireByte 0b01#2 h l ∨ b = wireByte 0b10#2 h l ∨ b = wireByte 0b11#2 h l := by
  have hm : markerField b = 0b00#2 ∨ markerField b = 0b01#2 ∨ markerField b = 0b10#2 ∨ markerField b = 0b11#2 := by
    generalize markerField b = m
    revert m; decide
  refine ⟨highField b, lowField b, ?_⟩
  obtain hm | hm | hm | hm := hm <;> simp [← hm, wireByte_fields]

@[simp] theorem decodeByteOp_wireByte_S00 (h l : Field) :
    decodeByteOp (wireByte 0b00#2 h l) = .bytePayloadS00 h l := by simp [decodeByteOp]

@[simp] theorem decodeByteOp_wireByte_S01 (h l : Field) :
    decodeByteOp (wireByte 0b01#2 h l) = .bytePayloadS01 h l := by simp [decodeByteOp]

@[simp] theorem decodeByteOp_wireByte_S10 (h l : Field) :
    decodeByteOp (wireByte 0b10#2 h l) = .bytePayloadS10 h l := by simp [decodeByteOp]

@[simp] theorem decodeByteOp_wireByte_mark (h l : Field) :
    decodeByteOp (wireByte 0b11#2 h l) = .byteMark h l := by simp [decodeByteOp]

/-- The word of a wire byte's operation is the byte under the operation code 00 (30_encoding.md R53). -/
theorem encode_decodeByteOp (b : Byte) : encode (decodeByteOp b) = 0b00#2 ++ b := by
  obtain ⟨h, l, rfl | rfl | rfl | rfl⟩ := exists_eq_wireByte b
  · rw [decodeByteOp_wireByte_S00]; exact byteWord_eq 0b00#2 h l
  · rw [decodeByteOp_wireByte_S01]; exact byteWord_eq 0b01#2 h l
  · rw [decodeByteOp_wireByte_S10]; exact byteWord_eq 0b10#2 h l
  · rw [decodeByteOp_wireByte_mark]; exact byteWord_eq 0b11#2 h l

/-- The operation of a byte takes exactly that byte (30_encoding.md R53). -/
@[simp] theorem byte?_decodeByteOp (b : Byte) : (decodeByteOp b).byte? = some b := by
  obtain ⟨h, l, rfl | rfl | rfl | rfl⟩ := exists_eq_wireByte b <;> simp [Instr.byte?]

/-- The operations by what they take in: a wire byte, or nothing for STEP and RESET (30_encoding.md R53). -/
theorem Instr.byteCases {motive : Instr → Prop} (i : Instr) (byte : ∀ b, motive (decodeByteOp b))
    (step : motive .step) (reset : motive .reset) : motive i := by
  cases i with
  | bytePayloadS00 h l => exact decodeByteOp_wireByte_S00 h l ▸ byte _
  | bytePayloadS01 h l => exact decodeByteOp_wireByte_S01 h l ▸ byte _
  | bytePayloadS10 h l => exact decodeByteOp_wireByte_S10 h l ▸ byte _
  | byteMark h l => exact decodeByteOp_wireByte_mark h l ▸ byte _
  | step => exact step
  | reset => exact reset

theorem decode_encode (i : Instr) : decode (encode i) = .ok i := by
  cases i using Instr.byteCases with
  | byte b => rw [encode_decodeByteOp, decode_byteWord]
  | step => exact Machine.decode_word_step
  | reset => exact Machine.decode_word_reset

/-- What a word can decode to: its byte's operation, STEP or RESET (30_encoding.md R53). -/
theorem decode_ok_cases {w : OpWord} {i : Instr} (hd : decode w = .ok i) :
    (w = 0b00#2 ++ dataField w ∧ i = decodeByteOp (dataField w)) ∨ (w = 0x100#10 ∧ i = .step) ∨
      (w = 0x200#10 ∧ i = .reset) := by
  have hw := (word_fields w).symm
  unfold decode at hd
  split at hd
  case isTrue h0 =>
    rw [h0] at hw
    exact .inl ⟨hw, (Except.ok.inj hd).symm⟩
  case isFalse =>
    split at hd
    case isTrue h1 =>
      split at hd
      case isTrue hz =>
        rw [h1, hz] at hw
        exact .inr (.inl ⟨hw, (Except.ok.inj hd).symm⟩)
      case isFalse => cases hd
    case isFalse =>
      split at hd
      case isTrue h2 =>
        split at hd
        case isTrue hz =>
          rw [h2, hz] at hw
          exact .inr (.inr ⟨hw, (Except.ok.inj hd).symm⟩)
        case isFalse => cases hd
      case isFalse => cases hd

/-- The words that decode are exactly the encodings, each of the one operation it decodes to. -/
theorem decode_eq_ok_iff (w : OpWord) (i : Instr) : decode w = .ok i ↔ encode i = w := by
  constructor
  · intro hd
    obtain ⟨hw, rfl⟩ | ⟨rfl, rfl⟩ | ⟨rfl, rfl⟩ := decode_ok_cases hd
    · rw [encode_decodeByteOp, ← hw]
    · rfl
    · rfl
  · rintro rfl
    exact decode_encode i

/-! ## The opcode map -/

/-- The encoding of an operation selects the operation's own row of the map and no other (30_encoding.md R54). -/
theorem encodesInItsRow (i : Instr) : Laws.EncodesInItsRow.Statement i := by
  cases i with
  | bytePayloadS00 h l => exact Laws.EncodesInItsRow.bytePayloadS00 h l
  | bytePayloadS01 h l => exact Laws.EncodesInItsRow.bytePayloadS01 h l
  | bytePayloadS10 h l => exact Laws.EncodesInItsRow.bytePayloadS10 h l
  | byteMark h l => exact Laws.EncodesInItsRow.byteMark h l
  | step => exact Laws.EncodesInItsRow.step
  | reset => exact Laws.EncodesInItsRow.reset

/-- A word whose operation code is 00 is a BYTE word, whatever its data field is (30_encoding.md R53). -/
theorem decode_of_opField_zero {w : OpWord} (h : opField w = 0b00#2) : decode w = .ok (decodeByteOp (dataField w)) :=
  if_pos h

/-- The mask of a BYTE row covers the operation code, so a word that selects the row has the code 00
(30_encoding.md R54). -/
theorem opField_eq_zero_of_and {w bits : OpWord} (h : w &&& 0x3C0#10 = bits) (hbits : opField bits = 0b00#2) :
    opField w = 0b00#2 := by
  have hand : opField (w &&& 0x3C0#10) = opField w &&& 0b11#2 := BitVec.extractLsb'_and
  rw [← hbits, ← h, hand]
  exact (BitVec.and_allOnes (x := opField w)).symm

/-- The mask of STEP and of RESET covers the whole word (30_encoding.md R54). -/
theorem word_eq_of_and {w bits : OpWord} (h : w &&& 0x3FF#10 = bits) : w = bits := by
  rw [← h]
  exact (BitVec.and_allOnes (x := w)).symm

/-- A word that a row of the map selects decodes (30_encoding.md R54). -/
theorem exists_decode_of_selects {r : OpcodeRow} (hr : r ∈ opcodeRows) {w : OpWord} (hs : r.selects w = true) :
    ∃ i, decode w = .ok i := by
  have hand : w &&& r.mask = r.bits := of_decide_eq_true hs
  simp only [opcodeRows, List.mem_cons, List.not_mem_nil, or_false] at hr
  obtain rfl | rfl | rfl | rfl | rfl | rfl := hr
  · exact ⟨_, decode_of_opField_zero (opField_eq_zero_of_and hand (by decide))⟩
  · exact ⟨_, decode_of_opField_zero (opField_eq_zero_of_and hand (by decide))⟩
  · exact ⟨_, decode_of_opField_zero (opField_eq_zero_of_and hand (by decide))⟩
  · exact ⟨_, decode_of_opField_zero (opField_eq_zero_of_and hand (by decide))⟩
  · exact ⟨.step, word_eq_of_and hand ▸ Machine.decode_word_step⟩
  · exact ⟨.reset, word_eq_of_and hand ▸ Machine.decode_word_reset⟩

/-! ## Reserved words -/

/-- A word from 0x300 on has the operation code 11 (30_encoding.md R55). -/
theorem decode_op11 {w : OpWord} (h : 0x300 ≤ w.toNat) : decode w = .error .op11 := by
  have hop : opField w = 0b11#2 := opField_eq (by simp; omega)
  simp [decode, hop]

/-- STEP with a data field other than 0 (30_encoding.md R55). -/
theorem decode_stepData {w : OpWord} (hlo : 0x101 ≤ w.toNat) (hhi : w.toNat ≤ 0x1FF) :
    decode w = .error .stepData := by
  have hop : opField w = 0b01#2 := opField_eq (by simp; omega)
  simp [decode, hop, dataField_ne_zero (w := w) (by omega)]

/-- RESET with a data field other than 0 (30_encoding.md R55). -/
theorem decode_resetData {w : OpWord} (hlo : 0x201 ≤ w.toNat) (hhi : w.toNat ≤ 0x2FF) :
    decode w = .error .resetData := by
  have hop : opField w = 0b10#2 := opField_eq (by simp; omega)
  simp [decode, hop, dataField_ne_zero (w := w) (by omega)]

/-- The words outside the three reserved ranges decode (30_encoding.md R54, R55). -/
theorem exists_decode_of_not_reserved {w : OpWord} (h : w.toNat ≤ 0x100 ∨ w.toNat = 0x200) :
    ∃ i, decode w = .ok i := by
  obtain hbyte | hstep | hreset : w.toNat < 0x100 ∨ w.toNat = 0x100 ∨ w.toNat = 0x200 := by omega
  · have hop : opField w = 0b00#2 := opField_eq (by simp; omega)
    exact ⟨_, decode_of_opField_zero hop⟩
  · have hw : w = 0x100#10 := BitVec.eq_of_toNat_eq hstep
    exact ⟨.step, hw ▸ Machine.decode_word_step⟩
  · have hw : w = 0x200#10 := BitVec.eq_of_toNat_eq hreset
    exact ⟨.reset, hw ▸ Machine.decode_word_reset⟩

/-! ## The obligations -/

/-- Settles O1: `decode_encode`, one operation after another; well-formedness excludes none of them. -/
theorem decodeOfEncode : Obligations.DecodeOfEncode :=
  fun i _ => decode_encode i

/-- Settles O2: the words that decode are the encodings. -/
theorem encodeOfDecode : Obligations.EncodeOfDecode :=
  fun w i => (decode_eq_ok_iff w i).1

/-- Settles O3: a word that decodes is an encoding, which selects its own row alone; a word that a row selects
decodes. -/
theorem opcodeMapIsCompleteAndDisjoint : Obligations.OpcodeMapIsCompleteAndDisjoint := by
  have hrow : ∀ {w i}, decode w = .ok i → i.row ∈ opcodeRows ∧ ∀ r ∈ opcodeRows, r.selects w = decide (r = i.row) := by
    intro w i hd
    rw [← (decode_eq_ok_iff w i).1 hd]
    exact encodesInItsRow i
  refine fun w => ⟨⟨?_, ?_⟩, ?_⟩
  · rintro ⟨i, hd⟩
    obtain ⟨hmem, hsel⟩ := hrow hd
    exact ⟨i.row, hmem, (hsel _ hmem).trans (decide_eq_true rfl)⟩
  · rintro ⟨r, hr, hs⟩
    exact exists_decode_of_selects hr hs
  · intro i hd r hr
    obtain ⟨-, hsel⟩ := hrow hd
    rw [hsel r hr, decide_eq_true_iff]

/-- Settles O4: the bytes through the four BYTE patterns, the reserved words through their ranges. -/
theorem specExampleWordsDecode : Obligations.SpecExampleWordsDecode :=
  ⟨decode_word_payloadS00 0 0, decode_word_payloadS00 7 7, decode_word_payloadS01 7 7, decode_word_payloadS10 7 7,
    decode_word_byteMark 0 0, decode_word_byteMark 7 7, Machine.decode_word_step, Machine.decode_word_reset,
    decode_stepData (by decide) (by decide), decode_resetData (by decide) (by decide), decode_op11 (by decide),
    decode_op11 (by decide)⟩

/-- Settles O6: the byte's word and the byte's operation, with the fields as numbers. -/
theorem byteWordIsItsWireByte : Obligations.ByteWordIsItsWireByte :=
  fun b => ⟨decode_byteWord b, byte?_decodeByteOp b, highField_toNat b, lowField_toNat b⟩

end Sys2Proof
end

section
/-! Sequences of operations as functions on states, and the machine's run through its queue (20_memory.md R35,
30_encoding.md R53, R55). -/

namespace Sys2Proof.Machine

/-! ## The state an operation leaves -/

/-- The state that an operation leaves. The other outcomes of `exec` do not occur (`exec_eq_after`). -/
def State.after (s : State) (i : Instr) : State :=
  match exec i s with
  | .next t => t
  | .fault _ => s
  | .refused _ => s

/-- The state that a sequence of operations leaves (`execAll_eq_afterAll`). -/
def State.afterAll (s : State) (is : List Instr) : State := is.foldl State.after s

theorem exec_eq_after (i : Instr) (s : State) : exec i s = .next (s.after i) := by
  obtain ⟨t, ht⟩ := noOperationCanFail i s
  simp only [State.after, ht]

theorem after_eq {i : Instr} {s t : State} (h : exec i s = .next t) : s.after i = t := by
  rw [exec_eq_after] at h
  exact Host.Outcome.next.inj h

@[simp] theorem after_byte (s : State) (b : Byte) : s.after (decodeByteOp b) = decodeByte b s :=
  after_eq (exec_decodeByteOp b s)

@[simp] theorem after_step (s : State) : s.after .step = renderStep s := rfl

@[simp] theorem after_reset (s : State) : s.after .reset = s.resetAfter (Config.resetCut s.cuts) := rfl

@[simp] theorem afterAll_nil (s : State) : s.afterAll [] = s := rfl

@[simp] theorem afterAll_cons (s : State) (i : Instr) (is : List Instr) :
    s.afterAll (i :: is) = (s.after i).afterAll is := rfl

@[simp] theorem afterAll_append (s : State) (is js : List Instr) :
    s.afterAll (is ++ js) = (s.afterAll is).afterAll js := List.foldl_append

theorem execAll_eq_afterAll (is : List Instr) (s : State) : execAll is s = .next (s.afterAll is) := by
  induction is generalizing s with
  | nil => rfl
  | cons i is ih => rw [execAll_cons (exec_eq_after i s), ih, afterAll_cons]

/-- What each operation of a sequence keeps, the sequence keeps. -/
theorem afterAll_keeps {P : State → Prop} {is : List Instr} {s : State} (hs : P s)
    (keeps : ∀ i ∈ is, ∀ t, P t → P (t.after i)) : P (s.afterAll is) := by
  induction is generalizing s with
  | nil => exact hs
  | cons i is ih =>
    exact ih (keeps i List.mem_cons_self s hs) fun j hj => keeps j (List.mem_cons_of_mem i hj)

/-! ## The queue -/

/-- The state with another queue of operation words. -/
def State.withInput (s : State) (q : List OpWord) : State := { s with input := q }

@[simp] theorem withInput_withInput (s : State) (q r : List OpWord) :
    (s.withInput q).withInput r = s.withInput r := rfl

theorem withInput_self (s : State) : s.withInput s.input = s := rfl

/-- No operation looks at the queue or takes from it (10_state.md R22). -/
theorem after_withInput (i : Instr) (s : State) (q : List OpWord) :
    (s.withInput q).after i = (s.after i).withInput q := by
  cases i using Instr.byteCases with
  | byte b => simp only [after_byte, decodeByte, State.resync]; split <;> rfl
  | step => rfl
  | reset => rfl

@[simp] theorem after_input (i : Instr) (s : State) : (s.after i).input = s.input :=
  (congrArg State.input (after_withInput i s s.input) :)

/-- A step takes the word at the head of the queue (30_encoding.md R53). -/
theorem step_of_decode {s : State} {w : OpWord} {rest : List OpWord} {i : Instr} (h : s.input = w :: rest)
    (d : decode w = .ok i) : step s = exec i (s.withInput rest) := by
  simp only [step, nextOperation_ok h d, State.withInput]

/-- With nothing queued the step is the step timer's STEP (70_reset_and_hazards.md R130). -/
theorem step_of_nil {s : State} (h : s.input = []) : step s = exec .step s := by
  simp only [step, nextOperation_nil h]

/-- A reserved word has no step (30_encoding.md R55). -/
theorem step_of_reserved {s : State} {w : OpWord} {rest : List OpWord} {r : Reserved} (h : s.input = w :: rest)
    (d : decode w = .error r) : step s = .refused (.reservedWord r) := by
  simp only [step, nextOperation_reserved h d]

/-- What a step can do: it is the step timer's STEP with nothing queued, or the operation of the queue's first
word. -/
theorem step_cases {s t : State} (h : step s = .next t) :
    (s.input = [] ∧ t = s.after .step) ∨
      ∃ w rest i, s.input = w :: rest ∧ decode w = .ok i ∧ t = (s.withInput rest).after i := by
  cases hq : s.input with
  | nil =>
    rw [step_of_nil hq] at h
    exact .inl ⟨rfl, (after_eq h).symm⟩
  | cons w rest =>
    cases hd : decode w with
    | ok i =>
      rw [step_of_decode hq hd] at h
      exact .inr ⟨w, rest, i, rfl, hd, (after_eq h).symm⟩
    | error r =>
      rw [step_of_reserved hq hd] at h
      cases h

/-- What every step keeps, every run keeps. -/
theorem run_keeps {P : State → Prop} (keeps : ∀ s t, P s → step s = .next t → P t) {n : Nat} {s t : State} (hs : P s)
    (h : Host.Core.run Sys2Proof.core n s = .next t) : P t := by
  induction n generalizing s with
  | zero => exact Host.Outcome.next.inj h ▸ hs
  | succ n ih =>
    cases hstep : step s with
    | next u =>
      rw [run_succ_next hstep] at h
      exact ih (keeps s u hs hstep) h
    | fault r => exact nomatch r
    | refused r =>
      rw [run_succ_refused hstep] at h
      cases h

/-- A run of one more step goes on from where the run ends. -/
theorem run_succ_of_run {n : Nat} {s u : State} (h : Host.Core.run Sys2Proof.core n s = .next u) :
    Host.Core.run Sys2Proof.core (n + 1) s = step u := by
  induction n generalizing s with
  | zero =>
    obtain rfl := Host.Outcome.next.inj h
    cases hstep : step s with
    | next t => exact run_succ_next hstep 0
    | fault r => exact nomatch r
    | refused r => exact run_succ_refused hstep 0
  | succ n ih =>
    cases hstep : step s with
    | next t =>
      rw [run_succ_next hstep] at h ⊢
      exact ih h
    | fault r => exact nomatch r
    | refused r =>
      rw [run_succ_refused hstep] at h
      cases h

/-- The words of a sequence of operations, presented and stepped through one by one, leave what the sequence leaves,
with nothing queued. -/
theorem run_wordsOf (is : List Instr) (s : State) :
    Host.Core.run Sys2Proof.core is.length (s.withInput (wordsOf is)) = .next ((s.afterAll is).withInput []) := by
  induction is generalizing s with
  | nil => rfl
  | cons i is ih =>
    have hstep : step (s.withInput (wordsOf (i :: is))) = .next ((s.after i).withInput (wordsOf is)) := by
      rw [step_of_decode (w := encode i) (rest := wordsOf is) rfl (decode_encode i), exec_eq_after,
        withInput_withInput, after_withInput]
    rw [List.length_cons, run_succ_next hstep, ih, afterAll_cons]

@[simp] theorem afterAll_input (is : List Instr) (s : State) : (s.afterAll is).input = s.input :=
  afterAll_keeps (P := fun t => t.input = s.input) rfl fun i _ t ht => (after_input i t).trans ht

/-- A queue without a reserved word is drained after as many steps as it has words, and stays so. -/
theorem run_drains {n : Nat} {s : State} (hq : ∀ w ∈ s.input, ∃ i, decode w = .ok i) (hn : s.input.length ≤ n) :
    ∃ u, Host.Core.run Sys2Proof.core n s = .next u ∧ u.input = [] := by
  induction n generalizing s with
  | zero => exact ⟨s, rfl, List.eq_nil_of_length_eq_zero (Nat.le_zero.1 hn)⟩
  | succ n ih =>
    cases hs : s.input with
    | nil =>
      have hstep : step s = .next (s.after .step) := (step_of_nil hs).trans (exec_eq_after .step s)
      rw [run_succ_next hstep]
      exact ih (by simp [hs]) (by simp [hs])
    | cons w rest =>
      rw [hs] at hq hn
      obtain ⟨i, hd⟩ := hq w List.mem_cons_self
      have hstep := (step_of_decode hs hd).trans (exec_eq_after i _)
      rw [run_succ_next hstep]
      refine ih (fun v hv => hq v (List.mem_cons_of_mem w ?_)) ?_
      · rwa [after_input] at hv
      · rw [after_input]
        exact Nat.le_of_succ_le_succ hn

/-- A word of ten bits presented with at least ten is itself (log entry 14). -/
theorem tableWord_toNat {nbits : Nat} (h : 10 ≤ nbits) (w : OpWord) : tableWord nbits w.toNat = some w := by
  have hlt : w.toNat < 2 ^ nbits := lt_of_lt_of_le w.isLt (Nat.pow_le_pow_right (by decide) h)
  rw [tableWord, Nat.mod_eq_of_lt hlt, if_pos w.isLt, BitVec.ofNat_toNat, BitVec.setWidth_eq]

/-! ## The obligations -/

/-- Settles O8: a reserved word refuses the first step and with it the run; every other word decodes, and its
operation has a next state. -/
theorem reservedWordsAreRefused : Obligations.ReservedWordsAreRefused := by
  intro s w rest hq
  refine ⟨fun h n => ?_, fun hlo hhi n => ?_, fun hlo hhi n => ?_, fun h => ?_⟩
  · exact run_succ_refused (step_of_reserved hq (decode_op11 h)) n
  · exact run_succ_refused (step_of_reserved hq (decode_stepData hlo hhi)) n
  · exact run_succ_refused (step_of_reserved hq (decode_resetData hlo hhi)) n
  · obtain ⟨i, hd⟩ := exists_decode_of_not_reserved h
    exact ⟨_, (step_of_decode hq hd).trans (exec_eq_after i _)⟩

/-- Settles O9: `step_of_decode` for the queue; a word presented by `withFetchWord` is the queue's first. -/
theorem stepRunsTheDecodedOperation : Obligations.StepRunsTheDecodedOperation := by
  refine ⟨fun s w rest i => step_of_decode, fun s w i nbits hbits hd => ?_⟩
  have hq : (s.withFetchWord nbits w.toNat).input = w :: s.input := by
    rw [State.withFetchWord, State.present_input, tableWord_toNat hbits, Option.getD_some]
  exact step_of_decode hq hd

/-- Settles O10. -/
theorem stepTimerStepsWhenNothingIsQueued : Obligations.StepTimerStepsWhenNothingIsQueued :=
  fun _ => step_of_nil

/-- Settles O11: `run_wordsOf`; from an empty queue the sequence leaves an empty queue too. -/
theorem runOfAQueueIsItsSequence : Obligations.RunOfAQueueIsItsSequence := by
  intro is s hs
  have hend : (s.afterAll is).withInput [] = s.afterAll is := by
    rw [← hs, ← afterAll_input is s, withInput_self]
  rw [execAll_eq_afterAll, ← hend]
  exact run_wordsOf is s

/-- Settles O12: the drained state's next step is the step timer's. -/
theorem everyStepAfterTheQueueIsASTEP : Obligations.EveryStepAfterTheQueueIsASTEP := by
  intro s hq n hn
  obtain ⟨u, hrun, hu⟩ := run_drains hq hn
  have hstep : step u = .next (u.after .step) := (step_of_nil hu).trans (exec_eq_after .step u)
  exact ⟨u, u.after .step, hrun, hu, exec_eq_after .step u, hstep, (run_succ_of_run hrun).trans hstep⟩

end Sys2Proof.Machine
end

section
/-! The frame decoder over runs of bytes: payload runs, markers, frames cut anywhere and frames with STEPs between
their bytes (40_decoder.md R72, R74, R76 to R79, 60_exceptions.md R108). -/

namespace Sys2Proof.Machine

/-! ## One byte, by slots -/

/-- The slot a byte lands in: 0 for a marker, the cursor for a payload byte (40_decoder.md R71). -/
def State.slotFor (s : State) (b : Byte) : Nat := if isMarker b then 0 else s.cursor.toNat

theorem slotFor_marker {b : Byte} (hb : isMarker b = true) (s : State) : s.slotFor b = 0 := if_pos hb

theorem slotFor_payload {b : Byte} (hb : isMarker b = false) (s : State) : s.slotFor b = s.cursor.toNat := by
  simp [State.slotFor, hb]

/-- The field of a byte that a nozzle takes: an even nozzle the high one, an odd nozzle the low one
(40_decoder.md R71). -/
def fieldFor (n : Nozzle) (b : Byte) : Field := if n.val % 2 = 0 then highField b else lowField b

/-- A byte writes the two nozzles of its slot and no other (40_decoder.md R71). -/
theorem decodeByte_nozzle_slot (b : Byte) (s : State) (n : Nozzle) :
    (decodeByte b s).nozzle n = if n.val / 2 = s.slotFor b then lvl (fieldFor n b) else s.nozzle n := by
  rw [decodeByte_nozzle, ← State.slotFor]
  generalize s.slotFor b = c
  by_cases heven : n.val = 2 * c
  · rw [if_pos heven, if_pos (by omega), fieldFor, if_pos (by omega)]
  · by_cases hodd : n.val = 2 * c + 1
    · rw [if_neg heven, if_pos hodd, if_pos (by omega), fieldFor, if_neg (by omega)]
    · rw [if_neg heven, if_neg hodd, if_neg (by omega)]

theorem decodeByte_cursor_slot (b : Byte) (s : State) : (decodeByte b s).cursor = nextCursor (s.slotFor b) :=
  decodeByte_cursor b s

theorem decodeByte_cursor_marker {b : Byte} (hb : isMarker b = true) (s : State) : (decodeByte b s).cursor = 1 := by
  rw [decodeByte_cursor_slot, slotFor_marker hb]
  rfl

theorem decodeByte_cursor_payload {b : Byte} (hb : isMarker b = false) {s : State} (hs : s.cursor.toNat ≤ 5) :
    (decodeByte b s).cursor.toNat = (s.cursor.toNat + 1) % 6 := by
  rw [decodeByte_cursor_slot, slotFor_payload hb, nextCursor_toNat hs]

/-- A payload byte at a cursor of 6 or 7 writes nothing: its slot has no entries (log entry 10). -/
theorem takePayload_of_illegal_cursor (h l : Field) {s : State} (hs : 6 ≤ s.cursor.toNat) :
    s.takePayload h l = { s with cursor := 0 } := by
  have hnoz : (s.takePayload h l).noz = s.noz := by
    have heven : 12 ≤ evenEntry s.cursor.toNat := Nat.mul_le_mul_left 2 hs
    have hodd : 12 ≤ oddEntry s.cursor.toNat := Nat.le_succ_of_le heven
    rw [State.takePayload_noz, Vector.setIfInBounds_eq_of_size_le hodd, Vector.setIfInBounds_eq_of_size_le heven]
  have hcursor : (s.takePayload h l).cursor = 0 := by
    rw [State.takePayload_cursor, nextCursor, if_pos (by omega)]
  rw [takePayload_frame, hnoz, hcursor]

/-! ## Runs of bytes -/

@[simp] theorem afterAll_byteOps_nil (s : State) : s.afterAll (byteOps []) = s := rfl

@[simp] theorem afterAll_byteOps_cons (s : State) (b : Byte) (bs : List Byte) :
    s.afterAll (byteOps (b :: bs)) = (decodeByte b s).afterAll (byteOps bs) := by
  rw [byteOps, List.map_cons, afterAll_cons, after_byte]
  rfl

@[simp] theorem afterAll_byteOps_concat (s : State) (bs : List Byte) (b : Byte) :
    s.afterAll (byteOps (bs ++ [b])) = decodeByte b (s.afterAll (byteOps bs)) := by
  rw [byteOps, List.map_append, afterAll_append, List.map_singleton, afterAll_cons, after_byte]
  rfl

/-- What every byte keeps, a run of bytes keeps. -/
theorem afterAll_byteOps_keeps {P : State → Prop} {bs : List Byte} {s : State} (hs : P s)
    (keeps : ∀ b ∈ bs, ∀ t, P t → P (decodeByte b t)) : P (s.afterAll (byteOps bs)) := by
  refine afterAll_keeps hs fun i hi t ht => ?_
  obtain ⟨b, hb, rfl⟩ := List.mem_map.1 hi
  rw [after_byte]
  exact keeps b hb t ht

/-- A run of bytes leaves alone all that is not the decoder's (10_state.md R22). -/
theorem afterAll_byteOps_frame (bs : List Byte) (s : State) :
    s.afterAll (byteOps bs) =
      { s with noz := (s.afterAll (byteOps bs)).noz, cursor := (s.afterAll (byteOps bs)).cursor } := by
  refine afterAll_byteOps_keeps (P := fun t => t = { s with noz := t.noz, cursor := t.cursor }) rfl fun b _ t ht => ?_
  rw [decodeByte_frame, ht]

/-- Payload bytes move the cursor on one by one modulo 6 (40_decoder.md R77). -/
theorem payloads_cursor {bs : List Byte} (hbs : ∀ x ∈ bs, isMarker x = false) {s : State} (hs : s.cursor.toNat ≤ 5) :
    (s.afterAll (byteOps bs)).cursor.toNat = (s.cursor.toNat + bs.length) % 6 := by
  induction bs generalizing s with
  | nil => exact (Nat.mod_eq_of_lt (Nat.lt_succ_of_le hs)).symm
  | cons b bs ih =>
    have hnext := decodeByte_cursor_payload (hbs b List.mem_cons_self) hs
    rw [afterAll_byteOps_cons, ih (fun x hx => hbs x (List.mem_cons_of_mem b hx)) (by omega), hnext, List.length_cons]
    omega

/-- Markers write the nozzles of slot 0 only (40_decoder.md R72). -/
theorem markers_nozzle {bs : List Byte} (hbs : ∀ x ∈ bs, isMarker x = true) (s : State) {n : Nozzle} (hn : 2 ≤ n.val) :
    (s.afterAll (byteOps bs)).nozzle n = s.nozzle n := by
  refine afterAll_byteOps_keeps (P := fun t => t.nozzle n = s.nozzle n) rfl fun b hb t ht => ?_
  rw [decodeByte_nozzle_slot, slotFor_marker (hbs b hb), if_neg (by omega), ht]

/-! ## Frames -/

/-- The first part of a frame, a marker and up to five payload bytes, leaves the cursor at the next slot
(40_decoder.md R74). -/
theorem frame_cursor {b : Byte} {bs : List Byte} (hb : isMarker b = true) (hbs : ∀ x ∈ bs, isMarker x = false)
    (s : State) : (s.afterAll (byteOps (b :: bs))).cursor.toNat = (bs.length + 1) % 6 := by
  have hmark : (decodeByte b s).cursor.toNat = 1 := congrArg BitVec.toNat (decodeByte_cursor_marker hb s)
  rw [afterAll_byteOps_cons, payloads_cursor hbs (by omega), hmark, Nat.add_comm]

/-- The level a nozzle holds after the bytes `bs` of a frame: the clamped field of its slot's byte, and what it held
where the frame has not come so far (40_decoder.md R79). -/
def levelFrom (bs : List Byte) (old : Level) (n : Nozzle) : Level :=
  (bs[n.val / 2]?).elim old fun b => lvl (fieldFor n b)

/-- One more byte reaches one more slot. -/
theorem levelFrom_concat (bs : List Byte) (b : Byte) (old : Level) (n : Nozzle) :
    levelFrom (bs ++ [b]) old n = if n.val / 2 = bs.length then lvl (fieldFor n b) else levelFrom bs old n := by
  unfold levelFrom
  obtain hlt | heq | hgt := lt_trichotomy (n.val / 2) bs.length
  · rw [List.getElem?_append_left hlt, if_neg hlt.ne]
  · rw [heq, List.getElem?_concat_length, if_pos rfl, Option.elim_some]
  · rw [List.getElem?_eq_none (by simpa using hgt), if_neg hgt.ne', List.getElem?_eq_none hgt.le]

/-- The first part of a frame writes its own slots, one after another, and no other (40_decoder.md R79). -/
theorem frame_nozzle {b : Byte} {bs : List Byte} (hb : isMarker b = true) (hbs : ∀ x ∈ bs, isMarker x = false)
    (hlen : bs.length ≤ 5) (s : State) (n : Nozzle) :
    (s.afterAll (byteOps (b :: bs))).nozzle n = levelFrom (b :: bs) (s.nozzle n) n := by
  induction bs using List.reverseRecOn with
  | nil =>
    rw [afterAll_byteOps_cons, afterAll_byteOps_nil, decodeByte_nozzle_slot, slotFor_marker hb]
    exact (levelFrom_concat [] b (s.nozzle n) n).symm
  | append_singleton bs c ih =>
    have hinit : ∀ x ∈ bs, isMarker x = false := fun x hx => hbs x (List.mem_append_left _ hx)
    have hc : isMarker c = false := hbs c (List.mem_append_right _ (List.mem_singleton.2 rfl))
    rw [List.length_append, List.length_singleton] at hlen
    have hslot : (s.afterAll (byteOps (b :: bs))).slotFor c = (b :: bs).length := by
      rw [slotFor_payload hc, frame_cursor hb hinit, Nat.mod_eq_of_lt (by omega), List.length_cons]
    rw [← List.cons_append, afterAll_byteOps_concat, decodeByte_nozzle_slot, hslot, ih hinit (by omega),
      levelFrom_concat]

/-- The entries of a whole frame, by slots (40_decoder.md R76). -/
theorem levelFrom_frame (b0 b1 b2 b3 b4 b5 : Byte) (old : Level) (n : Nozzle) :
    levelFrom [b0, b1, b2, b3, b4, b5] old n = (frameLevels b0 b1 b2 b3 b4 b5)[n] := by
  fin_cases n <;> rfl

/-- The first k bytes of a frame reach the nozzles 0 to 2k-1. -/
theorem levelFrom_take (bs : List Byte) (k : Nat) (old : Level) (n : Nozzle) :
    levelFrom (bs.take k) old n = if n.val / 2 < k then levelFrom bs old n else old := by
  rw [levelFrom, List.getElem?_take]
  split <;> rfl

/-- An intact frame sets every nozzle and leaves the cursor at 0, from any state (40_decoder.md R76). -/
theorem frame_noz {b0 b1 b2 b3 b4 b5 : Byte} (h : intactFrame b0 b1 b2 b3 b4 b5) (s : State) :
    (s.afterAll (byteOps [b0, b1, b2, b3, b4, b5])).noz = frameLevels b0 b1 b2 b3 b4 b5 ∧
      (s.afterAll (byteOps [b0, b1, b2, b3, b4, b5])).cursor = 0 := by
  obtain ⟨h0, hrest⟩ := h
  have hpayload : ∀ x ∈ [b1, b2, b3, b4, b5], isMarker x = false := by simpa using hrest
  constructor
  · refine Vector.ext fun i hi => ?_
    exact (frame_nozzle h0 hpayload (by simp) s ⟨i, hi⟩).trans (levelFrom_frame b0 b1 b2 b3 b4 b5 _ ⟨i, hi⟩)
  · apply BitVec.eq_of_toNat_eq
    rw [frame_cursor h0 hpayload]
    simp

/-! ## STEPs between bytes -/

/-- Two states that the decoder cannot tell apart. -/
def State.sameFile (s t : State) : Prop := s.noz = t.noz ∧ s.cursor = t.cursor

theorem decodeByte_sameFile {s t : State} (h : s.sameFile t) (b : Byte) :
    (decodeByte b s).sameFile (decodeByte b t) := by
  obtain ⟨hnoz, hcursor⟩ := h
  simp [State.sameFile, decodeByte, hnoz, hcursor]

/-- STEPs between the bytes change nothing for the decoder: the bytes taken decide (10_state.md R22). -/
theorem afterAll_sameFile {is : List Instr} (hreset : Instr.reset ∉ is) {s t : State} (h : s.sameFile t) :
    (s.afterAll is).sameFile (t.afterAll (byteOps (bytesTaken is))) := by
  induction is generalizing s t with
  | nil => exact h
  | cons i is ih =>
    have hrest : Instr.reset ∉ is := fun hmem => hreset (List.mem_cons_of_mem i hmem)
    cases i using Instr.byteCases with
    | byte b =>
      have htaken : bytesTaken (decodeByteOp b :: is) = b :: bytesTaken is :=
        List.filterMap_cons_some (byte?_decodeByteOp b)
      rw [htaken, afterAll_byteOps_cons, afterAll_cons, after_byte]
      exact ih hrest (decodeByte_sameFile h b)
    | step => exact ih hrest h
    | reset => exact absurd List.mem_cons_self hreset

/-! ## The obligations -/

/-- Settles O18: each spelling is the payload part, whose slot has no entries. -/
theorem payloadAtAnIllegalCursorWritesNothing : Obligations.PayloadAtAnIllegalCursorWritesNothing := by
  intro h l s hs
  have hpayload := takePayload_of_illegal_cursor h l hs
  refine ⟨?_, ?_, ?_⟩ <;> rw [exec_payload (h := h) (l := l) (by simp), hpayload]

/-- Settles O19: the wrap bounds the cursor from any state; marker and payload byte by their slot. -/
theorem cursorLaw : Obligations.CursorLaw := by
  intro b s
  refine ⟨_, exec_decodeByteOp b s, ?_, fun hmark => ?_, fun hpayload hs => ?_⟩
  · rw [decodeByte_cursor_slot]
    exact nextCursor_le _
  · exact congrArg BitVec.toNat (decodeByte_cursor_marker ((isMarker_iff_le b).2 hmark) s)
  · have hb : isMarker b = false := by
      rw [← Bool.not_eq_true, isMarker_iff_le]
      omega
    exact decodeByte_cursor_payload hb hs

/-- Settles O20: the STEPs between the bytes do not matter to the decoder, and the frame's bytes alone set every
nozzle from whatever state the history left. -/
theorem anIntactFrameHealsEveryHistory : Obligations.AnIntactFrameHealsEveryHistory := by
  rintro before is s b0 b1 b2 b3 b4 b5 hframe ⟨htaken, hreset⟩
  obtain ⟨hnoz, hcursor⟩ := afterAll_sameFile hreset (s := s.afterAll before) ⟨rfl, rfl⟩
  obtain ⟨hfnoz, hfcursor⟩ := frame_noz hframe (s.afterAll before)
  rw [htaken] at hnoz hcursor
  refine ⟨_, execAll_eq_afterAll _ s, ?_⟩
  rw [afterAll_append]
  exact ⟨hnoz.trans hfnoz, hcursor.trans hfcursor⟩

/-- Settles O21: the mask is read from the file that the first k + 1 bytes left. -/
theorem aStepSeesAPartialFrame : Obligations.AStepSeesAPartialFrame := by
  rintro s b0 b1 b2 b3 b4 b5 k ⟨h0, hrest⟩ hk
  have hpayload : ∀ x ∈ [b1, b2, b3, b4, b5], isMarker x = false := by simpa using hrest
  refine ⟨_, _, execAll_eq_afterAll _ s, exec_step _, fun n => ?_⟩
  rw [renderStep_fireMask, maskOf_getLsbD, ← nozzle_eq, List.take_succ_cons,
    frame_nozzle h0 (fun x hx => hpayload x (List.mem_of_mem_take hx)) (by simp), ← List.take_succ_cons,
    levelFrom_take, levelFrom_frame, afterAll_byteOps_frame]
  have hiff : n.val / 2 < k + 1 ↔ n.val ≤ 2 * k + 1 := by omega
  simp only [hiff]

/-- Settles O22: the cursor of the run gives the last byte's slot. -/
theorem payloadBytesWrapAroundTheFile : Obligations.PayloadBytesWrapAroundTheFile := by
  intro s bs b hs hbytes
  have hbs : ∀ x ∈ bs, isMarker x = false := fun x hx => hbytes x (List.mem_append_left _ hx)
  have hb : isMarker b = false := hbytes b (List.mem_append_right _ (List.mem_singleton.2 rfl))
  have hcursor := payloads_cursor hbs hs
  refine ⟨_, _, execAll_eq_afterAll _ s, execAll_eq_afterAll _ s, hcursor, ?_, fun n => ?_⟩
  · rw [payloads_cursor hbytes hs, List.length_append, List.length_singleton, Nat.add_assoc]
  · rw [afterAll_byteOps_concat, decodeByte_nozzle, ← State.slotFor, slotFor_payload hb, hcursor]
    simp only [apply_ite BitVec.toNat, lvl_toNat]

/-- Settles O23: the last marker writes nozzles 0 and 1, and no marker writes another. -/
theorem markersInARowWriteOnlyTwoNozzles : Obligations.MarkersInARowWriteOnlyTwoNozzles := by
  intro s bs b hbytes
  have hb : isMarker b = true := hbytes b (List.mem_append_right _ (List.mem_singleton.2 rfl))
  refine ⟨_, execAll_eq_afterAll _ s, ?_, ?_, ?_, fun n hn => markers_nozzle hbytes s hn⟩
  · rw [afterAll_byteOps_concat, decodeByte_cursor_marker hb]
  · rw [afterAll_byteOps_concat, decodeByte_nozzle_slot, slotFor_marker hb]
    exact lvl_toNat _
  · rw [afterAll_byteOps_concat, decodeByte_nozzle_slot, slotFor_marker hb]
    exact lvl_toNat _

/-- Settles O24: each operation keeps "the old level, or a field the host sent"; a byte taken was sent. -/
theorem nozzlesHoldOnlyWhatTheHostSent : Obligations.NozzlesHoldOnlyWhatTheHostSent := by
  rintro sent taken is s hsub ⟨rfl, hreset⟩
  refine ⟨_, execAll_eq_afterAll is s, fun n => ?_⟩
  refine afterAll_keeps (P := fun t => t.nozzle n = s.nozzle n ∨ ∃ b ∈ sent, t.nozzle n = lvl (fieldFor n b))
    (.inl rfl) fun i hi t ht => ?_
  cases i using Instr.byteCases with
  | byte b =>
    have hsent : b ∈ sent := hsub.subset (List.mem_filterMap.2 ⟨_, hi, byte?_decodeByteOp b⟩)
    rw [after_byte, decodeByte_nozzle_slot]
    split
    · exact .inr ⟨b, hsent, rfl⟩
    · exact ht
  | step => exact ht
  | reset => exact absurd hi hreset

/-- Settles O46: the reset cursor is 0, so marker and payload byte land in the same slot. -/
theorem theFirstByteAfterResetLandsInSlotZero : Obligations.TheFirstByteAfterResetLandsInSlotZero := by
  intro s b
  have hslot : (s.after .reset).slotFor b = 0 := ite_self 0
  refine ⟨_, execAll_eq_afterAll _ s, ?_⟩
  rw [afterAll_cons, afterAll_cons, after_byte, afterAll_nil, decodeByte_cursor_slot]
  simp only [decodeByte_nozzle_slot, hslot]
  refine ⟨lvl_toNat _, lvl_toNat _, fun n hn => ?_, rfl⟩
  rw [if_neg (by omega), after_reset, resetAfter_nozzle]

end Sys2Proof.Machine
end

section
/-! The sink trace: the fires of a mask, and what a RESET makes of them when it cuts them (41_renderer.md R85, R86,
70_reset_and_hazards.md R126). -/

namespace Sys2Proof.Machine

/-! ## Whole fires -/

/-- The events of whole fires, one after another. -/
def firesOf (order : List Nozzle) : List SinkEvent := order.flatMap fun n => eventsOf (fireActions n)

theorem firesOf_cons (n : Nozzle) (order : List Nozzle) :
    firesOf (n :: order) = eventsOf (fireActions n) ++ firesOf order := rfl

theorem eventsOf_stepActions_eq_firesOf (m : FireMask) : eventsOf (stepActions m) = firesOf (firingOrder m) :=
  eventsOf_stepActions m

/-- Whole fires leave an idle sink idle (10_state.md R18). -/
theorem run_fires_idle (order : List Nozzle) {x : SinkLines} (hx : x.idle = true) :
    (x.run (firesOf order)).idle = true := by
  induction order generalizing x with
  | nil => exact hx
  | cons n order ih =>
    rw [firesOf_cons, run_append, run_eventsOf_fireActions]
    exact ih rfl

/-- Whole fires drive nozzle addresses only (10_state.md R18). -/
theorem run_fires_nozAddr_le (order : List Nozzle) {x : SinkLines} (hx : x.nozAddr.toNat ≤ 11) :
    (x.run (firesOf order)).nozAddr.toNat ≤ 11 := by
  induction order generalizing x with
  | nil => exact hx
  | cons n order ih =>
    rw [firesOf_cons, run_append, run_eventsOf_fireActions]
    refine ih ?_
    have haddr : (SinkLines.idleAt n).nozAddr.toNat = n.val := nozAddr_toNat n
    omega

/-- One fire is legal from an idle sink (41_renderer.md R85). -/
theorem traceLegal_fire {x : SinkLines} (hx : x.idle = true) (n : Nozzle) :
    traceLegal x (eventsOf (fireActions n)) = true := by
  obtain ⟨hen, hpulse⟩ := (idle_iff x).1 hx
  simp [traceLegal, SinkLines.allows, SinkLines.apply, hen, hpulse]

/-- Whole fires are legal from an idle sink: each starts where the one before it left the sink idle
(41_renderer.md R86). -/
theorem traceLegal_fires (order : List Nozzle) {x : SinkLines} (hx : x.idle = true) :
    traceLegal x (firesOf order) = true := by
  induction order generalizing x with
  | nil => rfl
  | cons n order ih =>
    rw [firesOf_cons, traceLegal_append, traceLegal_fire hx, run_eventsOf_fireActions]
    exact ih rfl

/-! ## A cut firing sequence -/

/-- The pulse is high only while an address is asserted (41_renderer.md R85, last sentence). -/
def SinkLines.pulseAddressed (x : SinkLines) : Prop := x.pulse = true → x.addrEn = true

theorem pulseAddressed_of_idle {x : SinkLines} (hx : x.idle = true) : x.pulseAddressed := by
  obtain ⟨-, hpulse⟩ := (idle_iff x).1 hx
  intro h
  exact Bool.noConfusion (hpulse.symm.trans h)

/-- An allowed event keeps the pulse to asserted addresses. -/
theorem apply_pulseAddressed {x : SinkLines} {e : SinkEvent} (hx : x.pulseAddressed) (he : x.allows e = true) :
    (x.apply e).pulseAddressed := by
  cases e <;> simp_all [SinkLines.allows, SinkLines.apply, SinkLines.pulseAddressed]

/-- Along a legal trace the pulse is never high without an address (41_renderer.md R85). -/
theorem run_pulseAddressed {x : SinkLines} {es : List SinkEvent} (hx : x.pulseAddressed)
    (hes : traceLegal x es = true) : (x.run es).pulseAddressed := by
  induction es generalizing x with
  | nil => exact hx
  | cons e es ih =>
    obtain ⟨he, hes⟩ := (Bool.and_eq_true _ _).mp hes
    exact ih (apply_pulseAddressed hx he) hes

/-- The first part of a legal trace is legal. -/
theorem traceLegal_take {x : SinkLines} {es : List SinkEvent} (hes : traceLegal x es = true) (k : Nat) :
    traceLegal x (es.take k) = true := by
  rw [← List.take_append_drop k es, traceLegal_append] at hes
  obtain ⟨htake, -⟩ := (Bool.and_eq_true _ _).mp hes
  exact htake

/-- Two settings of the outputs that differ in the address at most. -/
def SinkLines.sameLevels (x y : SinkLines) : Prop := x.addrEn = y.addrEn ∧ x.pulse = y.pulse

theorem sameLevels_of_idle {x y : SinkLines} (hx : x.idle = true) (hy : y.idle = true) : x.sameLevels y := by
  obtain ⟨hxen, hxpulse⟩ := (idle_iff x).1 hx
  obtain ⟨hyen, hypulse⟩ := (idle_iff y).1 hy
  exact ⟨hxen.trans hyen.symm, hxpulse.trans hypulse.symm⟩

theorem run_sameLevels {x y : SinkLines} (h : x.sameLevels y) (es : List SinkEvent) :
    (x.run es).sameLevels (y.run es) := by
  induction es generalizing x y with
  | nil => exact h
  | cons e es ih =>
    obtain ⟨hen, hpulse⟩ := h
    refine ih ?_
    cases e with
    | addrAssert n => exact ⟨rfl, hpulse⟩
    | pulseHigh => exact ⟨hen, rfl⟩
    | pulseLow => exact ⟨hen, rfl⟩
    | addrDeassert => exact ⟨rfl, hpulse⟩

theorem lowering_congr {x y : SinkLines} (h : x.sameLevels y) : x.lowering = y.lowering := by
  obtain ⟨hen, hpulse⟩ := h
  rw [SinkLines.lowering, SinkLines.lowering, hen, hpulse]

/-- Lowering the outputs leaves the sink idle, whatever they were (70_reset_and_hazards.md R126). -/
theorem run_lowering_idle (x : SinkLines) : (x.run x.lowering).idle = true := by
  obtain ⟨en, addr, pulse⟩ := x
  cases en <;> cases pulse <;> rfl

/-- Lowering the outputs is legal where the pulse is high under an address only: the pulse falls first. -/
theorem traceLegal_lowering {x : SinkLines} (hx : x.pulseAddressed) : traceLegal x x.lowering = true := by
  obtain ⟨en, addr, pulse⟩ := x
  cases pulse with
  | true =>
    obtain rfl : en = true := hx rfl
    rfl
  | false => cases en <;> rfl

theorem cutEvents_nil (k : Nat) : cutEvents k [] = [] := by
  rw [cutEvents, List.take_nil]
  rfl

/-- The lines a RESET lowers are those at the cut: the trace before the last STEP ends idle, so it does not matter
for them. -/
theorem cutEvents_eq {x : SinkLines} (hx : x.idle = true) (k : Nat) (es : List SinkEvent) :
    cutEvents k es = es.take k ++ (x.run (es.take k)).lowering := by
  rw [cutEvents, lowering_congr (run_sameLevels (sameLevels_of_idle rfl hx) _)]

/-- A cut sequence ends with the sink idle (70_reset_and_hazards.md R126). -/
theorem run_cutEvents_idle {x : SinkLines} (hx : x.idle = true) (k : Nat) (es : List SinkEvent) :
    (x.run (cutEvents k es)).idle = true := by
  rw [cutEvents_eq hx, run_append]
  exact run_lowering_idle _

/-- A legal sequence stays legal when a RESET cuts it (41_renderer.md R85, 70_reset_and_hazards.md R126). -/
theorem traceLegal_cutEvents {x : SinkLines} (hx : x.idle = true) (k : Nat) {es : List SinkEvent}
    (hes : traceLegal x es = true) : traceLegal x (cutEvents k es) = true := by
  have hkept := traceLegal_take hes k
  rw [cutEvents_eq hx, traceLegal_append, hkept, Bool.true_and]
  exact traceLegal_lowering (run_pulseAddressed (pulseAddressed_of_idle hx) hkept)

end Sys2Proof.Machine
end

section
/-! The invariant: it holds at power-on and every operation keeps it (10_state.md R12, R13, R15, R17, R18). -/

namespace Sys2Proof.Machine

theorem reset_inv : State.reset.Inv where
  levels i := by simp
  cursor := by simp
  table := reset_lut_legal
  idle := rfl
  nozAddr := by simp [SinkLines.atReset]
  lastStep := by rw [State.reset_sinkLast, State.reset_fireMask, eventsOf_stepActions, firingOrder_zero]; rfl
  trace := rfl
  doneIdle := rfl

/-- The invariant says nothing about the queue. -/
theorem withInput_inv {s : State} (h : s.Inv) (q : List OpWord) : (s.withInput q).Inv :=
  ⟨h.levels, h.cursor, h.table, h.idle, h.nozAddr, h.lastStep, h.trace, h.doneIdle⟩

/-- A byte stores clamped levels and leaves a cursor of 0..5; the rest of the state it does not touch. -/
theorem decodeByte_inv {s : State} (h : s.Inv) (b : Byte) : (decodeByte b s).Inv where
  levels i := by
    rw [decodeByte_nozzle_slot]
    split
    · exact lvl_le_four _
    · exact h.levels i
  cursor := by
    rw [decodeByte_cursor]
    exact nextCursor_le _
  table := by rw [decodeByte_lut]; exact h.table
  idle := by rw [decodeByte_sink]; exact h.idle
  nozAddr := by rw [decodeByte_sink]; exact h.nozAddr
  lastStep := by rw [decodeByte_sinkLast, decodeByte_fireMask]; exact h.lastStep
  trace := by rw [State.sinkTrace, decodeByte_sinkDone, decodeByte_sinkLast]; exact h.trace
  doneIdle := by rw [decodeByte_sinkDone]; exact h.doneIdle

/-- In a state that meets the invariant the whole trace ends with the sink idle: its last part is whole fires. -/
theorem sinkTrace_run_idle {s : State} (h : s.Inv) : (SinkLines.atReset.run s.sinkTrace).idle = true := by
  rw [State.sinkTrace, run_append, h.lastStep, eventsOf_stepActions_eq_firesOf]
  exact run_fires_idle _ h.doneIdle

/-- A STEP drives whole fires, from an idle sink to an idle sink. -/
theorem renderStep_inv {s : State} (h : s.Inv) : (renderStep s).Inv where
  levels := h.levels
  cursor := h.cursor
  table := h.table
  idle := by
    rw [renderStep_sink, eventsOf_stepActions_eq_firesOf]
    exact run_fires_idle _ h.idle
  nozAddr := by
    rw [renderStep_sink, eventsOf_stepActions_eq_firesOf]
    exact run_fires_nozAddr_le _ h.nozAddr
  lastStep := rfl
  trace := by
    rw [renderStep_sinkTrace, traceLegal_append, h.trace, Bool.true_and, eventsOf_stepActions_eq_firesOf]
    exact traceLegal_fires _ (sinkTrace_run_idle h)
  doneIdle := sinkTrace_run_idle h

/-- A RESET cuts the last firing sequence legally, wherever it comes, and clears the registers. -/
theorem resetAfter_inv {s : State} (h : s.Inv) (k : Nat) : (s.resetAfter k).Inv where
  levels i := by simp
  cursor := by simp
  table := h.table
  idle := rfl
  nozAddr := by simp [SinkLines.atReset]
  lastStep := reset_inv.lastStep
  trace := by
    have htrace := h.trace
    rw [State.sinkTrace, traceLegal_append, Bool.and_eq_true] at htrace
    obtain ⟨hdone, hlast⟩ := htrace
    rw [State.sinkTrace, State.resetAfter_sinkDone, State.resetAfter_sinkLast, List.append_nil, traceLegal_append,
      hdone, Bool.true_and]
    exact traceLegal_cutEvents h.doneIdle k hlast
  doneIdle := by
    rw [State.resetAfter_sinkDone, run_append]
    exact run_cutEvents_idle h.doneIdle k _

theorem after_inv {s : State} (h : s.Inv) (i : Instr) : (s.after i).Inv := by
  cases i using Instr.byteCases with
  | byte b => rw [after_byte]; exact decodeByte_inv h b
  | step => exact renderStep_inv h
  | reset => exact resetAfter_inv h _

theorem afterAll_inv {s : State} (h : s.Inv) (is : List Instr) : (s.afterAll is).Inv :=
  afterAll_keeps h fun i _ _ ht => after_inv ht i

theorem step_inv {s t : State} (h : s.Inv) (hstep : step s = .next t) : t.Inv := by
  obtain ⟨-, rfl⟩ | ⟨w, rest, i, -, -, rfl⟩ := step_cases hstep
  · exact after_inv h .step
  · exact after_inv (withInput_inv h rest) i

/-- The pattern of a level 0..4 is one of the five defined ones (10_state.md R12, R15). -/
theorem gray_mem_of_le {l : Level} (h : l.toNat ≤ 4) (t : GrayTable) :
    gray t l ∈ [0x00000000#32, t.gray1, t.gray2, t.gray3, 0xFFFFFFFF#32] := by
  obtain rfl | rfl | rfl | rfl | rfl : l = 0 ∨ l = 1 ∨ l = 2 ∨ l = 3 ∨ l = 4 := by
    revert l; decide
  all_goals simp [gray]

/-! ## The obligations -/

/-- Settles O49: whatever operation the step takes keeps the invariant. -/
theorem everyStepKeepsTheInvariant : Obligations.EveryStepKeepsTheInvariant :=
  fun _ _ => step_inv

/-- Settles O48. -/
theorem invariantHoldsAtReset : Obligations.InvariantHoldsAtReset := reset_inv

/-- Settles O50: the invariant holds at power-on with any queue, and every run keeps it. -/
theorem reachableStatesHoldDefinedLevels : Obligations.ReachableStatesHoldDefinedLevels := by
  intro ws n t hrun
  have hinv : t.Inv := run_keeps (fun _ _ => step_inv) (withInput_inv reset_inv ws) hrun
  exact ⟨hinv.levels, hinv.cursor, fun i => gray_mem_of_le (hinv.levels i) t.lut⟩

/-- Settles O51: every sequence of operations keeps the invariant, which holds the trace's legality. -/
theorem everyRunDrivesALegalTrace : Obligations.EveryRunDrivesALegalTrace := by
  intro s is hs
  have hinv := afterAll_inv hs is
  exact ⟨_, execAll_eq_afterAll is s, hinv.trace, hinv.idle⟩

end Sys2Proof.Machine
end

section
/-! Runs of STEPs: the counter, the masks over 32 STEPs, the pattern densities and the extreme levels (10_state.md R16,
41_renderer.md R82, R84, R88 to R90). -/

namespace Sys2Proof.Machine

/-! ## The step counter -/

theorem decodeByte_stepReg (b : Byte) (s : State) : (decodeByte b s).stepReg = s.stepReg :=
  stepReg_congr (decodeByte_stepHigh b s) (decodeByte_stepLow b s)

/-- STEPs alone move the counter, one by one modulo 2^STEP_W (41_renderer.md R84). -/
theorem afterAll_stepReg_toNat {is : List Instr} (hreset : Instr.reset ∉ is) (s : State) :
    (s.afterAll is).stepReg.toNat = (s.stepReg.toNat + is.count .step) % 2 ^ Config.stepW := by
  induction is generalizing s with
  | nil => exact (Nat.mod_eq_of_lt s.stepReg.isLt).symm
  | cons i is ih =>
    have hrest : Instr.reset ∉ is := fun hmem => hreset (List.mem_cons_of_mem i hmem)
    rw [afterAll_cons, ih hrest]
    cases i using Instr.byteCases with
    | byte b =>
      have hne : decodeByteOp b ≠ .step := by
        intro h
        simpa [h, Instr.byte?] using byte?_decodeByteOp b
      rw [after_byte, decodeByte_stepReg, List.count_cons_of_ne hne]
    | step =>
      rw [after_step, renderStep_stepReg_toNat, Nat.mod_add_mod, List.count_cons_self, Nat.add_assoc, Nat.add_comm 1]
    | reset => exact absurd List.mem_cons_self hreset

/-- STEP_W is at least 5, so the counter's modulus is a multiple of 32 (10_state.md R14). -/
theorem thirtyTwo_dvd_stepModulus : 32 ∣ 2 ^ Config.stepW := Nat.pow_dvd_pow 2 (Nat.le_add_left 5 Config.stepExtra)

/-- The phase counts the STEPs modulo 32 (41_renderer.md R84). -/
theorem afterAll_stepLow_toNat {is : List Instr} (hreset : Instr.reset ∉ is) (s : State) :
    (s.afterAll is).stepLow.toNat = (s.stepLow.toNat + is.count .step) % 32 := by
  rw [← stepReg_toNat_mod, afterAll_stepReg_toNat hreset, Nat.mod_mod_of_dvd _ thirtyTwo_dvd_stepModulus, Nat.add_mod,
    stepReg_toNat_mod, Nat.add_mod_mod]

/-! ## Runs of STEPs -/

/-- A run of STEPs goes on by one more STEP. -/
theorem afterAll_stepOps_succ (s : State) (k : Nat) :
    s.afterAll (stepOps (k + 1)) = renderStep (s.afterAll (stepOps k)) := by
  rw [stepOps, List.replicate_succ', afterAll_append]
  rfl

/-- What a STEP keeps, a run of STEPs keeps. -/
theorem afterAll_stepOps_keeps {P : State → Prop} {s : State} (hs : P s) (keeps : ∀ t, P t → P (renderStep t))
    (k : Nat) : P (s.afterAll (stepOps k)) := by
  refine afterAll_keeps hs fun i hi t ht => ?_
  obtain rfl := List.eq_of_mem_replicate hi
  exact keeps t ht

@[simp] theorem afterAll_stepOps_noz (s : State) (k : Nat) : (s.afterAll (stepOps k)).noz = s.noz :=
  afterAll_stepOps_keeps (P := fun t => t.noz = s.noz) rfl (fun _ ht => ht) k

@[simp] theorem afterAll_stepOps_lut (s : State) (k : Nat) : (s.afterAll (stepOps k)).lut = s.lut :=
  afterAll_stepOps_keeps (P := fun t => t.lut = s.lut) rfl (fun _ ht => ht) k

theorem reset_not_mem_stepOps (k : Nat) : Instr.reset ∉ stepOps k :=
  fun h => nomatch List.eq_of_mem_replicate h

theorem afterAll_stepOps_stepLow_toNat (s : State) (k : Nat) :
    (s.afterAll (stepOps k)).stepLow.toNat = (s.stepLow.toNat + k) % 32 := by
  rw [afterAll_stepLow_toNat (reset_not_mem_stepOps k), stepOps, List.count_replicate_self]

/-- Of a run of STEPs with the nozzles held, the last one's mask shows each pattern at the phase it has come to
(41_renderer.md R81, R83, R84). -/
theorem stepOps_fireMask_bit (s : State) (k : Nat) (n : Nozzle) :
    (s.afterAll (stepOps (k + 1))).fireMask.getLsbD n.val =
      (gray s.lut (s.nozzle n)).getLsbD ((s.stepLow.toNat + k) % 32) := by
  rw [afterAll_stepOps_succ, renderStep_fireMask, maskOf_getLsbD, afterAll_stepOps_noz, afterAll_stepOps_lut,
    afterAll_stepOps_stepLow_toNat, nozzle_eq]

/-- Two masks are equal when each nozzle has the same bit. -/
theorem fireMask_ext {m m' : FireMask} (h : ∀ n : Nozzle, m.getLsbD n.val = m'.getLsbD n.val) : m = m' :=
  BitVec.eq_of_getLsbD_eq fun i hi => h ⟨i, hi⟩

/-! ## Counts over 32 STEPs -/

/-- Going round a cycle of n from another start meets the same places (41_renderer.md R89). -/
theorem countP_range_rotate (p : Nat → Bool) (n a : Nat) :
    ((List.range n).countP fun k => p ((a + k) % n)) = (List.range n).countP p := by
  have hrotate : (List.range n).map (fun k => (a + k) % n) = (List.range n).rotate a := by
    refine List.ext_getElem (by simp) fun k _ _ => ?_
    simp [List.getElem_rotate, Nat.add_comm]
  calc ((List.range n).countP fun k => p ((a + k) % n))
      = ((List.range n).map fun k => (a + k) % n).countP p := List.countP_map.symm
    _ = ((List.range n).rotate a).countP p := by rw [hrotate]
    _ = (List.range n).countP p := (List.rotate_perm _ a).countP_eq p

/-- Over 32 STEPs a nozzle fires once for each set bit of its pattern (41_renderer.md R89). -/
theorem fires_of_32_steps (s : State) (n : Nozzle) :
    ((List.range 32).countP fun k => (s.afterAll (stepOps (k + 1))).fireMask.getLsbD n.val) =
      popcount (gray s.lut (s.nozzle n)) := by
  simp only [stepOps_fireMask_bit]
  exact countP_range_rotate _ 32 s.stepLow.toNat

/-- One level up, the pattern has at least as many set bits (10_state.md R16). -/
theorem popcount_gray_succ {t : GrayTable} (ht : t.legal = true) {k : Nat} (hk : k < 4) :
    popcount (gray t (BitVec.ofNat 3 k)) ≤ popcount (gray t (BitVec.ofNat 3 (k + 1))) := by
  obtain ⟨h12, h23⟩ := (legal_iff t).1 ht
  have hnone : popcount 0x00000000#32 = 0 := by decide
  have hall : popcount 0xFFFFFFFF#32 = 32 := by decide
  obtain rfl | rfl | rfl | rfl : k = 0 ∨ k = 1 ∨ k = 2 ∨ k = 3 := by omega
  · exact hnone.le.trans (Nat.zero_le _)
  · exact h12
  · exact h23
  · exact (popcount_le _).trans hall.ge

/-- The density of the patterns rises with the level (10_state.md R16). -/
theorem popcount_gray_mono {t : GrayTable} (ht : t.legal = true) {l1 l2 : Level} (hle : l1.toNat ≤ l2.toNat)
    (h4 : l2.toNat ≤ 4) : popcount (gray t l1) ≤ popcount (gray t l2) := by
  have hmono : ∀ k, l1.toNat ≤ k → k ≤ 4 →
      popcount (gray t (BitVec.ofNat 3 l1.toNat)) ≤ popcount (gray t (BitVec.ofNat 3 k)) := by
    intro k hk
    induction k, hk using Nat.le_induction with
    | base => exact fun _ => le_rfl
    | succ k _ ih => exact fun hk4 => (ih (by omega)).trans (popcount_gray_succ ht (by omega))
  have := hmono l2.toNat hle h4
  rwa [BitVec.ofNat_toNat, BitVec.setWidth_eq, BitVec.ofNat_toNat, BitVec.setWidth_eq] at this

/-! ## Extreme levels -/

theorem stepOps_bit_of_level_zero {s : State} {n : Nozzle} (hn : s.nozzle n = 0) (k : Nat) :
    (s.afterAll (stepOps (k + 1))).fireMask.getLsbD n.val = false := by
  rw [stepOps_fireMask_bit, hn, gray_zero]
  exact BitVec.getLsbD_zero

theorem stepOps_bit_of_level_four {s : State} {n : Nozzle} (hn : s.nozzle n = 4) (k : Nat) :
    (s.afterAll (stepOps (k + 1))).fireMask.getLsbD n.val = true := by
  rw [stepOps_fireMask_bit, hn, gray_four]
  exact (BitVec.getLsbD_allOnes (v := 32)).trans (decide_eq_true (Nat.mod_lt _ (by decide)))

/-- With every nozzle at level 0 a STEP has the empty mask (41_renderer.md R90). -/
theorem maskOf_eq_zero {s : State} (h : ∀ n : Nozzle, s.nozzle n = 0) : maskOf s.lut s.noz s.stepLow = 0 := by
  refine fireMask_ext fun n => ?_
  rw [maskOf_getLsbD, ← nozzle_eq, h n, gray_zero]
  exact BitVec.getLsbD_zero.trans BitVec.getLsbD_zero.symm

/-- A STEP with every nozzle at level 0 does nothing but count: no mask, no event, no output (41_renderer.md R90). -/
theorem renderStep_silent {s : State} (h : ∀ n : Nozzle, s.nozzle n = 0) :
    (renderStep s).fireMask = 0 ∧ (renderStep s).sinkTrace = s.sinkTrace ∧ (renderStep s).sink = s.sink := by
  have hmask := maskOf_eq_zero h
  refine ⟨hmask, ?_, ?_⟩
  · rw [renderStep_sinkTrace, renderStep_fireMask, hmask, eventsOf_stepActions, firingOrder_zero, List.flatMap_nil,
      List.append_nil]
  · rw [renderStep_sink, hmask, run_stepActions_zero]

/-- STEPs with every nozzle at level 0 leave trace and outputs as they were (41_renderer.md R90). -/
theorem stepOps_silent {s : State} (h : ∀ n : Nozzle, s.nozzle n = 0) (k : Nat) :
    (s.afterAll (stepOps k)).sinkTrace = s.sinkTrace ∧ (s.afterAll (stepOps k)).sink = s.sink := by
  induction k with
  | zero => exact ⟨rfl, rfl⟩
  | succ k ih =>
    obtain ⟨htrace, hsink⟩ := ih
    have hlevels : ∀ n : Nozzle, (s.afterAll (stepOps k)).nozzle n = 0 := by
      intro n
      rw [nozzle_eq, afterAll_stepOps_noz]
      exact h n
    obtain ⟨-, htrace', hsink'⟩ := renderStep_silent hlevels
    rw [afterAll_stepOps_succ]
    exact ⟨htrace'.trans htrace, hsink'.trans hsink⟩

/-! ## The obligations -/

/-- Settles O26. -/
theorem patternDensityIsMonotone : Obligations.PatternDensityIsMonotone :=
  fun _ _ _ ht hlt h4 => popcount_gray_mono ht hlt.le h4

/-- Settles O28: each lane is read from its own entry's pattern. -/
theorem maskLanesAreIndependent : Obligations.MaskLanesAreIndependent := by
  intro t noz noz' ph i h
  rw [maskOf_getLsbD, maskOf_getLsbD, h]

/-- Settles O30: the counter as a whole, and its low five bits. -/
theorem stepCounterCountsTheSteps : Obligations.StepCounterCountsTheSteps := by
  refine ⟨Nat.le_add_left 5 _, fun is s hreset => ⟨_, execAll_eq_afterAll is s, ?_, ?_, ?_⟩⟩
  · exact afterAll_stepReg_toNat hreset s
  · exact (stepReg_toNat_mod _).symm
  · exact afterAll_stepLow_toNat hreset s

/-- Settles O35: k and k + 32 are the same phase. -/
theorem masksRepeatEvery32Steps : Obligations.MasksRepeatEvery32Steps := by
  intro s k
  refine ⟨_, _, execAll_eq_afterAll _ s, execAll_eq_afterAll _ s, afterAll_stepOps_noz s _, afterAll_stepOps_noz s _,
    fireMask_ext fun n => ?_⟩
  rw [stepOps_fireMask_bit, stepOps_fireMask_bit, ← Nat.add_assoc, Nat.add_mod_right]

/-- Settles O36: 32 STEPs go once round the phases, from whatever phase they start. -/
theorem dutyCycleIsThePatternDensity : Obligations.DutyCycleIsThePatternDensity :=
  fun s => ⟨fun k => s.afterAll (stepOps (k + 1)), fun _ => execAll_eq_afterAll _ s, fires_of_32_steps s⟩

/-- Settles O37: the duty cycles are the densities, which rise with the level. -/
theorem higherLevelsNeverFireLess : Obligations.HigherLevelsNeverFireLess := by
  intro s hs n m hle
  refine ⟨fun k => s.afterAll (stepOps (k + 1)), fun _ => execAll_eq_afterAll _ s, ?_⟩
  rw [fires_of_32_steps, fires_of_32_steps]
  exact popcount_gray_mono hs.table hle (hs.levels m)

/-- Settles O38: the patterns of levels 0 and 4 are constant, whatever the phase. -/
theorem extremeLevels : Obligations.ExtremeLevels := by
  intro s k
  refine ⟨_, execAll_eq_afterAll _ s, fun n hn => stepOps_bit_of_level_zero hn k,
    fun n hn => stepOps_bit_of_level_four hn k, fun h => ⟨fireMask_ext fun n => ?_, ?_⟩,
    fun h => fireMask_ext fun n => ?_⟩
  · rw [stepOps_bit_of_level_zero (h n), BitVec.getLsbD_zero]
  · obtain ⟨htrace, -⟩ := stepOps_silent h (k + 1)
    exact htrace
  · rw [stepOps_bit_of_level_four (h n)]
    exact ((BitVec.getLsbD_allOnes (v := 12)).trans (decide_eq_true n.isLt)).symm

/-- Settles O39: bytes touch neither the mask nor the sink nor the counter. -/
theorem bytesAfterAStepDoNotChangeIt : Obligations.BytesAfterAStepDoNotChangeIt := by
  intro s bs
  refine ⟨_, _, exec_step s, execAll_eq_afterAll _ s, ?_⟩
  rw [afterAll_cons, after_step, afterAll_byteOps_frame]
  exact ⟨rfl, rfl, rfl, rfl, rfl⟩

end Sys2Proof.Machine
end

section
/-! The pulses and the time of a STEP (41_renderer.md R87, R91, 70_reset_and_hazards.md R129). -/

namespace Sys2Proof.Machine

/-! ## Pulses -/

/-- Whole fires give a nozzle as many pulses as it is fired (41_renderer.md R91). -/
theorem pulsesOn_fires (n : Nozzle) (order : List Nozzle) : pulsesOn n none (firesOf order) = order.count n := by
  induction order with
  | nil => rfl
  | cons k order ih =>
    rw [firesOf_cons, eventsOf_fireActions, List.count_cons, ← ih, Nat.add_comm]
    simp [pulsesOn]

/-- Whole fires raise the pulse once each (41_renderer.md R91). -/
theorem pulseCount_fires (order : List Nozzle) : pulseCount (firesOf order) = order.length := by
  induction order with
  | nil => rfl
  | cons k order ih =>
    have hfire : pulseCount (eventsOf (fireActions k)) = 1 := rfl
    rw [firesOf_cons, pulseCount, List.countP_append, ← pulseCount, ← pulseCount, hfire, ih, List.length_cons,
      Nat.add_comm]

/-- A nozzle stands in the firing order once if its bit is set (41_renderer.md R86). -/
theorem count_firingOrder (m : FireMask) (n : Nozzle) :
    (firingOrder m).count n = if m.getLsbD n.val then 1 else 0 := by
  have hnodup : (firingOrder m).Nodup := (firingOrder_pairwise m).imp ne_of_lt
  simp [hnodup.count]

theorem length_firingOrder (m : FireMask) :
    (firingOrder m).length = (List.finRange 12).countP fun n => m.getLsbD n.val :=
  List.countP_eq_length_filter.symm

/-! ## Time -/

theorem timeOf_append (as bs : List SinkAction) : timeOf (as ++ bs) = timeOf as + timeOf bs := by
  induction as with
  | nil => exact (Nat.zero_add _).symm
  | cons a as ih =>
    cases a with
    | drive e => exact ih
    | wait p => rw [List.cons_append, timeOf, timeOf, ih, Nat.add_assoc]

/-- Each fire takes its two address waits and its pulse (41_renderer.md R85). -/
theorem timeOf_fires (order : List Nozzle) :
    timeOf (order.flatMap fireActions) =
      order.length * (2 * Config.duration .tAddr + Config.duration .tPulse) := by
  induction order with
  | nil => exact (Nat.zero_mul _).symm
  | cons n order ih =>
    rw [List.flatMap_cons, timeOf_append, ih, List.length_cons, Nat.add_mul, Nat.one_mul]
    simp only [fireActions, timeOf]
    omega

/-! ## The obligations -/

/-- Settles O33: the events of a STEP are the whole fires of its mask, each nozzle of it once. -/
theorem onePulsePerSetBit : Obligations.OnePulsePerSetBit := by
  intro s
  refine ⟨_, exec_step s, rfl, fun n => ?_, ?_⟩
  · rw [renderStep_sinkLast, eventsOf_stepActions_eq_firesOf, pulsesOn_fires, count_firingOrder, renderStep_fireMask]
  · rw [renderStep_sinkLast, eventsOf_stepActions_eq_firesOf, pulseCount_fires, length_firingOrder,
      renderStep_fireMask]

/-- Settles O34: at most twelve fires, and the delay after them. -/
theorem everyStepEndsInTheMinimumDelay : Obligations.EveryStepEndsInTheMinimumDelay := by
  intro m
  refine ⟨⟨(firingOrder m).flatMap fireActions, rfl, ?_⟩, ?_⟩
  · have hlen : (firingOrder m).length ≤ 12 := (List.length_filter_le _ _).trans List.length_finRange.le
    rw [timeOf_fires]
    exact Nat.mul_le_mul_right _ hlen
  · rw [stepActions, timeOf_append, timeOf_fires, length_firingOrder]
    rfl

end Sys2Proof.Machine
end

section
/-! RESET repeated, RESET in the reset state, the cut of a firing sequence, and the STEPs after a RESET
(60_exceptions.md R111, 70_reset_and_hazards.md R120, R122, R126); the access matrix (10_state.md R22). -/

namespace Sys2Proof.Machine

/-! ## The reset state -/

/-- A counter that is 0 is 0 in both parts (10_state.md R14). -/
theorem parts_eq_zero_of_stepReg {s : State} (h : s.stepReg = 0) : s.stepHigh = 0 ∧ s.stepLow = 0 := by
  have hnat : s.stepHigh.toNat * 32 + s.stepLow.toNat = 0 := by
    rw [← stepReg_toNat, h]
    exact BitVec.toNat_zero
  have hhigh : s.stepHigh.toNat = 0 := by omega
  have hlow : s.stepLow.toNat = 0 := by omega
  exact ⟨BitVec.eq_of_toNat_eq (hhigh.trans BitVec.toNat_zero.symm), BitVec.eq_of_toNat_eq hlow⟩

/-- A register file of zeros is the reset file. -/
theorem noz_eq_replicate {s : State} (h : ∀ n : Nozzle, s.nozzle n = 0) : s.noz = Vector.replicate 12 0 := by
  refine Vector.ext fun i hi => ?_
  rw [Vector.getElem_replicate]
  exact h ⟨i, hi⟩

/-- A RESET of a state whose registers hold their reset values and whose last STEP left no event to cut changes
nothing (70_reset_and_hazards.md R120). -/
theorem resetAfter_eq_self {s : State} (hnoz : s.noz = Vector.replicate 12 0) (hcursor : s.cursor = 0)
    (hhigh : s.stepHigh = 0) (hlow : s.stepLow = 0) (hmask : s.fireMask = 0) (hsink : s.sink = SinkLines.atReset)
    (hlast : s.sinkLast = []) (k : Nat) : s.resetAfter k = s := by
  obtain ⟨noz, cursor, stepHigh, stepLow, fireMask, sink, lut, sinkDone, sinkLast, cuts, input⟩ := s
  subst hnoz hcursor hhigh hlow hmask hsink hlast
  simp only [State.resetAfter, cutEvents_nil, List.append_nil, List.isEmpty_nil, if_true]

/-- A RESET after a RESET changes nothing, at whatever points the two cut (60_exceptions.md R111). -/
theorem resetAfter_resetAfter (s : State) (j k : Nat) : (s.resetAfter j).resetAfter k = s.resetAfter j :=
  resetAfter_eq_self rfl rfl rfl rfl rfl rfl rfl k

/-! ## The obligations about RESET -/

/-- Settles O42. -/
theorem resetInTheResetStateChangesNothing : Obligations.ResetInTheResetStateChangesNothing := by
  intro s hlevels hcursor hreg hmask hsink hlast
  obtain ⟨hhigh, hlow⟩ := parts_eq_zero_of_stepReg hreg
  rw [exec_reset, resetAfter_eq_self (noz_eq_replicate hlevels) hcursor hhigh hlow hmask hsink hlast]

/-- Settles O43: the first RESET leaves a state that every further one leaves as it is. -/
theorem heldResetIsOneReset : Obligations.HeldResetIsOneReset := by
  intro s n
  refine ⟨s.after .reset, exec_eq_after .reset s, ?_⟩
  rw [execAll_eq_afterAll, List.replicate_succ, afterAll_cons]
  refine congrArg Host.Outcome.next (afterAll_keeps (P := fun t => t = s.after .reset) rfl fun i hi t ht => ?_)
  obtain rfl := List.eq_of_mem_replicate hi
  subst ht
  exact resetAfter_resetAfter s _ _

/-- Settles O44: the first part that a RESET keeps is the events before the cut, and a cut at its length keeps any
given first part. -/
theorem resetCutsTheFiringSequence : Obligations.ResetCutsTheFiringSequence := by
  refine fun s => ⟨?_, ⟨_, exec_reset s⟩, fun p hp => ⟨p.length, ?_⟩⟩
  · refine ⟨_, s.sinkLast.take (Config.resetCut s.cuts), exec_reset s, List.take_prefix _ _,
      resetAfter_sinkTrace s _, ?_, rfl, rfl, resetAfter_stepReg s _, rfl, rfl, rfl⟩
    rw [run_append]
    exact run_lowering_idle _
  · rw [resetAfter_sinkTrace, ← List.prefix_iff_eq_take.1 hp]

/-- Settles O45: after a RESET every nozzle is at level 0, so the STEPs only count. -/
theorem stepsBeforeAnyByteFireNothing : Obligations.StepsBeforeAnyByteFireNothing := by
  intro s k
  have hlevels : ∀ n : Nozzle, (s.after .reset).nozzle n = 0 := resetAfter_nozzle s _
  obtain ⟨htrace, hsink⟩ := stepOps_silent hlevels k
  refine ⟨s.after .reset, _, exec_eq_after .reset s, execAll_eq_afterAll _ _, ?_, htrace, hsink, ?_⟩
  · cases k with
    | zero => rfl
    | succ k => exact fireMask_ext fun n => (stepOps_bit_of_level_zero (hlevels n) k).trans BitVec.getLsbD_zero.symm
  · have hphase : (s.after .reset).stepLow.toNat = 0 := rfl
    rw [afterAll_stepOps_stepLow_toNat, hphase, Nat.zero_add]

/-! ## The access matrix -/

/-- Settles O47: the frame of each operation; a byte leaves the nozzles outside its slot. -/
theorem accessMatrix : Obligations.AccessMatrix := by
  refine fun s => ⟨fun b => ⟨_, exec_decodeByteOp b s, ?_⟩, ⟨_, exec_step s, rfl, rfl, rfl, rfl, rfl⟩,
    ⟨_, exec_reset s, rfl, rfl⟩⟩
  refine ⟨decodeByte_stepHigh b s, decodeByte_stepLow b s, decodeByte_fireMask b s, decodeByte_sink b s,
    decodeByte_lut b s, ?_, decodeByte_sinkLast b s, decodeByte_cuts b s, decodeByte_input b s, fun n hn => ?_⟩
  · rw [State.sinkTrace, decodeByte_sinkDone, decodeByte_sinkLast, State.sinkTrace]
  · exact (decodeByte_nozzle_slot b s n).trans (if_neg hn)

end Sys2Proof.Machine
end

section
/-! The assembler and the disassembler (30_encoding.md R59, R60), and the FRAME line executed (40_decoder.md R76). -/

namespace Sys2Proof

/-! ## Words of lines -/

/-- A byte's number is its operation word (30_encoding.md R59). -/
theorem ofNat_byte_toNat (b : Byte) : BitVec.ofNat 10 b.toNat = 0b00#2 ++ b := by
  apply BitVec.eq_of_toNat_eq
  have := b.isLt
  rw [BitVec.toNat_ofNat, BitVec.toNat_append, Nat.mod_eq_of_lt (by omega)]
  simp

/-- The number of a byte from its three fields (30_encoding.md R50). -/
theorem wireByte_toNat (m : BitVec 2) (h l : Field) :
    (wireByte m h l).toNat = 64 * m.toNat + 8 * h.toNat + l.toNat := by
  have hm := markerField_toNat (wireByte m h l)
  have hh := highField_toNat (wireByte m h l)
  have hl := lowField_toNat (wireByte m h l)
  rw [markerField_wireByte] at hm
  rw [highField_wireByte] at hh
  rw [lowField_wireByte] at hl
  omega

theorem encode_byteMark (h l : Field) : encode (.byteMark h l) = markWord h.toNat l.toNat := by
  rw [← decodeByteOp_wireByte_mark, encode_decodeByteOp, ← ofNat_byte_toNat, wireByte_toNat]
  rfl

theorem encode_bytePayloadS00 (h l : Field) : encode (.bytePayloadS00 h l) = dataWord h.toNat l.toNat := by
  rw [← decodeByteOp_wireByte_S00, encode_decodeByteOp, ← ofNat_byte_toNat, wireByte_toNat, BitVec.toNat_zero]
  simp [dataWord]

/-! ## The assembler -/

theorem assemble_byte (b : Nat) : assemble (.byte b) = if b < 256 then some [BitVec.ofNat 10 b] else none := by
  simp [assemble, AsmLine.wellFormed, AsmLine.words]

theorem assemble_mark (h l : Nat) : assemble (.mark h l) = if h < 8 ∧ l < 8 then some [markWord h l] else none := by
  simp [assemble, AsmLine.wellFormed, AsmLine.words]

theorem assemble_data (h l : Nat) : assemble (.data h l) = if h < 8 ∧ l < 8 then some [dataWord h l] else none := by
  simp [assemble, AsmLine.wellFormed, AsmLine.words]

/-- FRAME is well formed when each of its twelve operands is in range (30_encoding.md R60). -/
theorem wellFormed_frame (v : Vector Nat 12) : (AsmLine.frame v).wellFormed = true ↔ ∀ i : Nozzle, v[i] < 8 := by
  simp only [AsmLine.wellFormed, List.all_eq_true, decide_eq_true_iff, Vector.mem_toList_iff, Vector.mem_iff_getElem]
  constructor
  · exact fun h i => h v[i] ⟨i.val, i.isLt, rfl⟩
  · rintro h x ⟨i, hi, rfl⟩
    exact h ⟨i, hi⟩

theorem assemble_frame (v : Vector Nat 12) :
    assemble (.frame v) = if ∀ i : Nozzle, v[i] < 8 then some (AsmLine.frame v).words else none := by
  simp only [assemble, wellFormed_frame]

/-! ## The disassembler -/

/-- The assembler's line that spells an operation (30_encoding.md R59). -/
def Instr.line : Instr → AsmLine
  | .bytePayloadS00 h l => .data h.toNat l.toNat
  | .bytePayloadS01 h l => .byte (wireByte 0b01#2 h l).toNat
  | .bytePayloadS10 h l => .byte (wireByte 0b10#2 h l).toNat
  | .byteMark h l => .mark h.toNat l.toNat
  | .step => .step
  | .reset => .reset

theorem disassemble_of_decode {w : OpWord} {i : Instr} (hd : decode w = .ok i) : disassemble w = some i.line := by
  rw [disassemble, hd]
  cases i <;> rfl

theorem disassemble_of_reserved {w : OpWord} {r : Reserved} (hd : decode w = .error r) : disassemble w = none := by
  rw [disassemble, hd]

/-- The line of an operation assembles to the operation's word (30_encoding.md R59). -/
theorem assemble_line (i : Instr) : assemble i.line = some [encode i] := by
  cases i with
  | bytePayloadS00 h l => rw [Instr.line, assemble_data, if_pos ⟨h.isLt, l.isLt⟩, encode_bytePayloadS00]
  | bytePayloadS01 h l =>
    rw [Instr.line, assemble_byte, if_pos (BitVec.isLt _), ofNat_byte_toNat, ← encode_decodeByteOp,
      decodeByteOp_wireByte_S01]
  | bytePayloadS10 h l =>
    rw [Instr.line, assemble_byte, if_pos (BitVec.isLt _), ofNat_byte_toNat, ← encode_decodeByteOp,
      decodeByteOp_wireByte_S10]
  | byteMark h l => rw [Instr.line, assemble_mark, if_pos ⟨h.isLt, l.isLt⟩, encode_byteMark]
  | step => rfl
  | reset => rfl

end Sys2Proof

namespace Sys2Proof.Machine

/-! ## The FRAME line -/

/-- A field from an operand in range is the operand (30_encoding.md R59). -/
theorem ofNat_field_toNat {x : Nat} (h : x < 8) : (BitVec.ofNat 3 x).toNat = x := by
  rw [BitVec.toNat_ofNat, Nat.mod_eq_of_lt h]

theorem lvl_operand_toNat {x : Nat} (h : x < 8) : (lvl (BitVec.ofNat 3 x)).toNat = min x 4 := by
  rw [lvl_toNat, ofNat_field_toNat h]

theorem encode_mark_operands {h l : Nat} (hh : h < 8) (hl : l < 8) :
    encode (.byteMark (BitVec.ofNat 3 h) (BitVec.ofNat 3 l)) = markWord h l := by
  rw [encode_byteMark, ofNat_field_toNat hh, ofNat_field_toNat hl]

theorem encode_data_operands {h l : Nat} (hh : h < 8) (hl : l < 8) :
    encode (.bytePayloadS00 (BitVec.ofNat 3 h) (BitVec.ofNat 3 l)) = dataWord h l := by
  rw [encode_bytePayloadS00, ofNat_field_toNat hh, ofNat_field_toNat hl]

/-- The wire byte that spells a slot's two operands under the marker bits `m`. -/
def operandByte (m : BitVec 2) (h l : Nat) : Byte := wireByte m (BitVec.ofNat 3 h) (BitVec.ofNat 3 l)

/-- The wire bytes of FRAME: a marker and five payload bytes of the spelling 00 (30_encoding.md R60). -/
def frameBytes (v : Vector Nat 12) : List Byte :=
  [operandByte 0b11#2 v[0] v[1], operandByte 0b00#2 v[2] v[3], operandByte 0b00#2 v[4] v[5],
    operandByte 0b00#2 v[6] v[7], operandByte 0b00#2 v[8] v[9], operandByte 0b00#2 v[10] v[11]]

/-- The words of FRAME are those of its bytes' operations (30_encoding.md R60). -/
theorem wordsOf_frameBytes {v : Vector Nat 12} (hv : ∀ (i : Nat) (hi : i < 12), v[i] < 8) :
    wordsOf (byteOps (frameBytes v)) = (AsmLine.frame v).words := by
  simp only [wordsOf, byteOps, frameBytes, operandByte, List.map_cons, List.map_nil, decodeByteOp_wireByte_mark,
    decodeByteOp_wireByte_S00, encode_mark_operands, encode_data_operands, hv, AsmLine.words]

/-- Executing the bytes of FRAME sets every nozzle to its clamped operand (40_decoder.md R76). -/
theorem afterAll_frameBytes {v : Vector Nat 12} (hv : ∀ (i : Nat) (hi : i < 12), v[i] < 8) (s : State) :
    (∀ i : Nozzle, ((s.afterAll (byteOps (frameBytes v))).nozzle i).toNat = min v[i] 4) ∧
      (s.afterAll (byteOps (frameBytes v))).cursor = 0 := by
  have hframe : intactFrame (operandByte 0b11#2 v[0] v[1]) (operandByte 0b00#2 v[2] v[3])
      (operandByte 0b00#2 v[4] v[5]) (operandByte 0b00#2 v[6] v[7]) (operandByte 0b00#2 v[8] v[9])
      (operandByte 0b00#2 v[10] v[11]) := by
    simp [intactFrame, operandByte]
  obtain ⟨hnoz, hcursor⟩ := frame_noz hframe s
  refine ⟨fun i => ?_, hcursor⟩
  rw [nozzle_eq, frameBytes, hnoz]
  simp only [frameLevels, operandByte, highField_wireByte, lowField_wireByte]
  fin_cases i <;> exact lvl_operand_toNat (hv _ _)

/-! ## The obligations -/

/-- Settles O52: a word that decodes is the word of its operation's line; a reserved word has no line. -/
theorem assembleOfDisassemble : Obligations.AssembleOfDisassemble := by
  intro w
  cases hd : decode w with
  | ok i =>
    rw [disassemble_of_decode hd, ← (decode_eq_ok_iff w i).1 hd]
    refine ⟨fun a ha => ?_, by simp⟩
    obtain rfl := Option.some.inj ha
    exact assemble_line i
  | error r =>
    rw [disassemble_of_reserved hd]
    exact ⟨fun _ ha => (Option.some_ne_none _ ha.symm).elim, fun _ => ⟨r, rfl⟩, fun _ => rfl⟩

/-- Settles O53: each line by its operand ranges and its words. -/
theorem assemblerWords : Obligations.AssemblerWords :=
  ⟨assemble_byte, assemble_mark, assemble_data, rfl, rfl, assemble_frame, fun _ => rfl⟩

/-- Settles O54: the operations are those of the frame's bytes, whose words are FRAME's. -/
theorem frameSetsEveryNozzle : Obligations.FrameSetsEveryNozzle := by
  intro v s hv
  have hv' : ∀ (i : Nat) (hi : i < 12), v[i] < 8 := fun i hi => hv ⟨i, hi⟩
  obtain ⟨hlevels, hcursor⟩ := afterAll_frameBytes hv' s
  refine ⟨byteOps (frameBytes v), _, ?_, ?_, execAll_eq_afterAll _ s, hlevels, hcursor⟩
  · rw [assemble_frame, if_pos hv, wordsOf_frameBytes hv']
  · simp only [wordsOf_frameBytes hv', assemble_mark, assemble_data, hv', and_self, if_true]
    rfl

end Sys2Proof.Machine
end
